-- ==== Sys2Proof/Word.lean ====
section
/-! DEFINITION. The word types and the plain records that cross ports: bytes, EVT2 words, polarities, pixel
colours and change-detection events (spec/00_scope.md R8, R9; spec/10_state.md R25, R32). -/

namespace Sys2Proof

/-- One byte of the input stream, or one channel of the raster (R25: CHAN_BITS = 8). -/
abbrev Byte := BitVec 8

/-- RawWord: a 32-bit EVT2 word (R70). -/
abbrev Word := BitVec 32

/-- A 64-bit tick count in the time base of `now` (R30, R180). -/
abbrev Ticks := BitVec 64

/-- Polarity of a change-detection event (R32): OFF is 0, ON is 1. -/
inductive Polarity where
  | off
  | on
deriving DecidableEq, Repr, Inhabited

/-- The three channels of one pixel, or of a paint colour, by index (R25, D10). -/
structure Color where
  c0 : Byte
  c1 : Byte
  c2 : Byte
deriving DecidableEq, Repr, Inhabited

/-- CDEvent, a change-detection event (R32). The timestamp travels in a 64-bit field whose value the decoder
keeps below 2^34 (D3, C1). -/
structure CDEvent where
  x         : BitVec 11
  y         : BitVec 11
  polarity  : Polarity
  timestamp : BitVec 64
deriving DecidableEq, Repr, Inhabited

end Sys2Proof
end

