-- ==== Sys2Proof/Config.lean ====
section
/-! DEFINITION. The configuration record CFG of spec/00_scope.md R5, the configuration functions the spec leaves
OPEN (R142, D14, D23), and the configuration that `State.reset` is constructed with. -/

namespace Sys2Proof

/-- CARRY_POLICY (R5, R31): what happens to a chunk's partial tail word (D4, C3). -/
inductive CarryPolicy where
  /-- register value 0: the tail is held in `dec.carry` (R106) -/
  | carry
  /-- register value 1: the tail is discarded (R107) -/
  | drop
deriving DecidableEq, Repr, Inhabited

/-- FpsVal, the abstract number type of frame-rate values (R142, D14). DESIGN CHOICE (safe, log 4): a value is an
opaque code; the model gives it no arithmetic and no order. -/
structure FpsVal where
  code : Nat
deriving DecidableEq, Repr, Inhabited

/-- EPS, the small number of the frame-rate formula, which R5 lets be any real above 0. DESIGN CHOICE (safe, log 5):
State is plain data, so the register holds a fraction, or the name of an OPEN positive real. The number it stands for
is `epsValue` in Machine/Operands.lean. -/
inductive Eps where
  /-- `num / den`, unchecked: construction refuses one that is not above 0 (R7) -/
  | ratio (num : Int) (den : Nat)
  /-- the positive real whose square root, up to sign, is `Config.epsRoot name` -/
  | real (name : Nat)
deriving DecidableEq, Repr, Inhabited

/-- A colour as CFG gives it: three channel values before construction has checked their range (R5). -/
structure CfgColor where
  c0 : Nat
  c1 : Nat
  c2 : Nat
deriving DecidableEq, Repr, Inhabited

/-- CFG (R5): one field per row of R5's table. The fields are unchecked numbers: construction refuses a record
outside the legal values (R7). `fpsInst` and `fpsSmooth` name the configuration functions (log 3). -/
structure Cfg where
  width       : Nat
  height      : Nat
  decayNum    : Nat
  decayFrac   : Nat := 16
  fpsWindow   : Nat
  eps         : Eps
  tickHz      : Nat
  onColor     : CfgColor
  offColor    : CfgColor
  chanBits    : Nat := 8
  carryPolicy : CarryPolicy := .carry
  fpsInst     : Nat
  fpsSmooth   : Nat
  cntBits     : Nat := 64
  timeBits    : Nat := 64
  tsBits      : Nat := 64
deriving DecidableEq, Repr, Inhabited

/-- A square root of a named EPS (R5). OPEN: an uninterpreted non-zero real for each name; the squares of the
non-zero reals are exactly the reals above 0, the legal values of EPS (log 5). -/
opaque Config.epsRoot : Nat → ℝˣ

/-- FPS_INST (R5, R142): the configuration function from elapsed ticks to an instantaneous frame rate. OPEN: an
uninterpreted total function of the function's name, TICK_HZ, EPS and the elapsed ticks (log 3). -/
opaque Config.fpsInst : Nat → Nat → ℝ → Ticks → FpsVal

/-- FPS_SMOOTH (R5, R142): the configuration function from the window's frame rates to the reported rate. OPEN: an
uninterpreted total function of the function's name and the list (log 3). -/
opaque Config.fpsSmooth : Nat → List FpsVal → FpsVal

/-- The configuration of `State.reset`. DESIGN CHOICE (unsafe, log 1): the spec makes each of these a construction
input; these are the example values of spec/95_test_vectors.md, with a tick rate, an EPS and function names of the
model's own. No statement rests on them. -/
def Cfg.atReset : Cfg where
  width := 4
  height := 4
  decayNum := 32768
  fpsWindow := 2
  eps := .ratio 1 1000000
  tickHz := 1000000
  onColor := ⟨255, 128, 7⟩
  offColor := ⟨1, 2, 3⟩
  fpsInst := 0
  fpsSmooth := 0

end Sys2Proof
end

