-- ==== Sys2Proof/Syntax.lean ====
section
/-! DEFINITION. The instructions: one constructor for every row of spec/opcode_table.json, sixteen EVT2 word rows
(spec/30_encoding.md R70 to R79) and eight host command rows (R80), with their operands. -/

namespace Sys2Proof

/-- An EVT2 word, or a host transaction. A reserved word keeps its payload as syntax (the operand `p` of R82); no
meaning reads it (R74, R104; log 15). -/
inductive Instr where
  /-- CD_OFF, tag 0x0 (R101) -/
  | cdOff (tLow : BitVec 6) (x y : BitVec 11)
  /-- CD_ON, tag 0x1 (R102) -/
  | cdOn (tLow : BitVec 6) (x y : BitVec 11)
  /-- RSV_2 (R104) -/
  | rsv2 (payload : BitVec 28)
  /-- RSV_3 (R104) -/
  | rsv3 (payload : BitVec 28)
  /-- RSV_4 (R104) -/
  | rsv4 (payload : BitVec 28)
  /-- RSV_5 (R104) -/
  | rsv5 (payload : BitVec 28)
  /-- RSV_6 (R104) -/
  | rsv6 (payload : BitVec 28)
  /-- RSV_7 (R104) -/
  | rsv7 (payload : BitVec 28)
  /-- TIME_HIGH, tag 0x8 (R103) -/
  | timeHigh (h : BitVec 28)
  /-- RSV_9 (R104) -/
  | rsv9 (payload : BitVec 28)
  /-- RSV_A (R104) -/
  | rsvA (payload : BitVec 28)
  /-- RSV_B (R104) -/
  | rsvB (payload : BitVec 28)
  /-- RSV_C (R104) -/
  | rsvC (payload : BitVec 28)
  /-- RSV_D (R104) -/
  | rsvD (payload : BitVec 28)
  /-- RSV_E (R104) -/
  | rsvE (payload : BitVec 28)
  /-- RSV_F (R104) -/
  | rsvF (payload : BitVec 28)
  /-- DECODE_WORD(w), command 0b001 (R105) -/
  | decodeWord (w : Word)
  /-- DECODE_CHUNK(bytes), command 0b010 (R106, R107) -/
  | decodeChunk (bytes : List Byte)
  /-- INGEST(events), command 0b011 (R130) -/
  | ingest (events : List CDEvent)
  /-- SNAPSHOT(now), command 0b100 (R135) -/
  | snapshot (now : Ticks)
  /-- RESET, command 0b101 (R143) -/
  | reset
  /-- CMD_RSV_0, the reserved command 0b000 (R81) -/
  | cmdRsv0
  /-- CMD_RSV_6, the reserved command 0b110 (R81) -/
  | cmdRsv6
  /-- CMD_RSV_7, the reserved command 0b111 (R81) -/
  | cmdRsv7
deriving DecidableEq, Repr, Inhabited

end Sys2Proof
end

