-- ==== Sys2Proof/Decode.lean ====
section
/-! DEFINITION. The decoder from bytes to instructions and the encoder back (spec/30_encoding.md): the EVT2 word
formats CD, TH and RSV (R70 to R79), the host command codes (R80), and the frames in which the model's host hands
them over. The spec gives EVT2 words and command codes a binary form; the layout of a command's operands inside a
frame is the model's (DESIGN CHOICE, log 6). -/

namespace Sys2Proof

/-! ## Bytes and words -/

/-- LE32 (R10, R51): `b0` is the first byte in stream order and holds bits 7:0. -/
def le32 (b0 b1 b2 b3 : Byte) : Word :=
  b0.setWidth 32 ||| (b1.setWidth 32 <<< 8) ||| (b2.setWidth 32 <<< 16) ||| (b3.setWidth 32 <<< 24)

/-- The four bytes of a word in stream order (R51). -/
def bytesOfWord (w : Word) : List Byte :=
  [w.extractLsb' 0 8, w.extractLsb' 8 8, w.extractLsb' 16 8, w.extractLsb' 24 8]

/-- A 64-bit operand from its two little-endian halves, low half first (log 6). -/
def le64 (lo hi : Word) : BitVec 64 := lo.setWidth 64 ||| (hi.setWidth 64 <<< 32)

/-- The eight bytes of a 64-bit operand, low byte first (log 6). -/
def bytesOfTicks (t : BitVec 64) : List Byte :=
  bytesOfWord (t.extractLsb' 0 32) ++ bytesOfWord (t.extractLsb' 32 32)

/-! ## Fields of an EVT2 word (R71 to R75) -/

/-- `w[31:28]` (R71). -/
def wordTag (w : Word) : BitVec 4 := w.extractLsb' 28 4

/-- `w[27:22]` (R72). -/
def wordTLow (w : Word) : BitVec 6 := w.extractLsb' 22 6

/-- `w[21:11]` (R72). -/
def wordX (w : Word) : BitVec 11 := w.extractLsb' 11 11

/-- `w[10:0]` (R72). -/
def wordY (w : Word) : BitVec 11 := w.extractLsb' 0 11

/-- `w[27:0]`: the TIME_HIGH payload (R73), or a reserved word's unexamined payload (R74). -/
def wordPayload (w : Word) : BitVec 28 := w.extractLsb' 0 28

/-- The decoding of an EVT2 word (R77): total, selected by the tag alone. The last arm is tag 0xF, the one value of
a 4-bit tag that the arms before it leave. -/
def decodeEvt2 (w : Word) : Instr :=
  match (wordTag w).toNat with
  | 0x0 => .cdOff (wordTLow w) (wordX w) (wordY w)
  | 0x1 => .cdOn (wordTLow w) (wordX w) (wordY w)
  | 0x2 => .rsv2 (wordPayload w)
  | 0x3 => .rsv3 (wordPayload w)
  | 0x4 => .rsv4 (wordPayload w)
  | 0x5 => .rsv5 (wordPayload w)
  | 0x6 => .rsv6 (wordPayload w)
  | 0x7 => .rsv7 (wordPayload w)
  | 0x8 => .timeHigh (wordPayload w)
  | 0x9 => .rsv9 (wordPayload w)
  | 0xA => .rsvA (wordPayload w)
  | 0xB => .rsvB (wordPayload w)
  | 0xC => .rsvC (wordPayload w)
  | 0xD => .rsvD (wordPayload w)
  | 0xE => .rsvE (wordPayload w)
  | _   => .rsvF (wordPayload w)

/-! ## Frames -/

/-- Where a frame is handed over: one word of the decoder's stream, or one host command (log 8). -/
inductive Port where
  | stream
  | command
deriving DecidableEq, Repr, Inhabited

/-- One instruction as the model's host queues it: a port and the bytes (log 6). -/
structure Frame where
  port  : Port
  bytes : List Byte
deriving DecidableEq, Repr, Inhabited

/-- Why a frame holds no instruction (log 16). No frame that the encoder writes is rejected. -/
inductive DecodeError where
  /-- a stream frame that is not exactly one 4-byte word (R53: a partial word is never decoded) -/
  | notOneWord
  /-- a command frame without its command code -/
  | noCommandCode
  /-- a command whose operand bytes are not of the operand's length -/
  | operandLength
  /-- an event list that ends inside an event -/
  | partialEvent
  /-- an event with a bit set outside its fields -/
  | eventReservedBits
deriving DecidableEq, Repr, Inhabited

/-- One event of an INGEST operand: polarity in bit 22, x in bits 21:11, y in bits 10:0 of the first word, then the
64-bit timestamp (log 6). -/
def decodeEvent (packed tsLo tsHi : Word) : Except DecodeError CDEvent :=
  if packed.extractLsb' 23 9 = 0 then
    .ok { x := wordX packed
          y := wordY packed
          polarity := if packed.extractLsb' 22 1 = 1#1 then .on else .off
          timestamp := le64 tsLo tsHi }
  else .error .eventReservedBits

/-- The events of an INGEST operand, twelve bytes each (log 6). -/
def decodeEvents : List Byte → Except DecodeError (List CDEvent)
  | [] => .ok []
  | b0 :: b1 :: b2 :: b3 :: b4 :: b5 :: b6 :: b7 :: b8 :: b9 :: b10 :: b11 :: rest =>
    match decodeEvent (le32 b0 b1 b2 b3) (le32 b4 b5 b6 b7) (le32 b8 b9 b10 b11) with
    | .error e => .error e
    | .ok ev =>
      match decodeEvents rest with
      | .error e => .error e
      | .ok evs => .ok (ev :: evs)
  | _ => .error .partialEvent

/-- A host command (R80): the 3-bit code selects the transaction. Code 7 is the last arm. A reserved code is refused
whatever follows it (R81). -/
def decodeCommand (cmd : BitVec 3) (operand : List Byte) : Except DecodeError Instr :=
  match cmd.toNat with
  | 0b000 => .ok .cmdRsv0
  | 0b001 =>
    match operand with
    | [b0, b1, b2, b3] => .ok (.decodeWord (le32 b0 b1 b2 b3))
    | _ => .error .operandLength
  | 0b010 => .ok (.decodeChunk operand)
  | 0b011 =>
    match decodeEvents operand with
    | .ok evs => .ok (.ingest evs)
    | .error e => .error e
  | 0b100 =>
    match operand with
    | [b0, b1, b2, b3, b4, b5, b6, b7] => .ok (.snapshot (le64 (le32 b0 b1 b2 b3) (le32 b4 b5 b6 b7)))
    | _ => .error .operandLength
  | 0b101 =>
    match operand with
    | [] => .ok .reset
    | _ => .error .operandLength
  | 0b110 => .ok .cmdRsv6
  | _ => .ok .cmdRsv7

/-- The decoder: total on frames of any bytes. A command byte's bits 7:3 are no part of the 3-bit code and are not
examined (log 7). -/
def decode (f : Frame) : Except DecodeError Instr :=
  match f.port with
  | .stream =>
    match f.bytes with
    | [b0, b1, b2, b3] => .ok (decodeEvt2 (le32 b0 b1 b2 b3))
    | _ => .error .notOneWord
  | .command =>
    match f.bytes with
    | [] => .error .noCommandCode
    | code :: operand => decodeCommand (code.setWidth 3) operand

/-! ## The encoder -/

/-- The polarity bit (R32, R76). -/
def Polarity.bit : Polarity → BitVec 1
  | .off => 0
  | .on => 1

/-- `encode_cd(pol, t_low, x, y)` (R78). -/
def encodeCd (pol : Polarity) (tLow : BitVec 6) (x y : BitVec 11) : Word :=
  (pol.bit.setWidth 32 <<< 28) ||| (tLow.setWidth 32 <<< 22) ||| (x.setWidth 32 <<< 11) ||| y.setWidth 32

/-- `encode_th(h)` (R78). -/
def encodeTh (h : BitVec 28) : Word := 0x80000000#32 ||| h.setWidth 32

/-- `(tag << 28) | p`: a word of the RSV format (R74, R82). -/
def encodeRsv (tag : BitVec 4) (p : BitVec 28) : Word := (tag.setWidth 32 <<< 28) ||| p.setWidth 32

/-- A stream frame of one word, little-endian (R51). -/
def wordFrame (w : Word) : Frame := ⟨.stream, bytesOfWord w⟩

/-- A command frame: the code of R80 in bits 2:0 of the first byte, then the operand bytes (log 6). -/
def commandFrame (cmd : BitVec 3) (operand : List Byte) : Frame := ⟨.command, cmd.setWidth 8 :: operand⟩

/-- The twelve bytes of one event of an INGEST operand (log 6). -/
def encodeEvent (ev : CDEvent) : List Byte :=
  bytesOfWord ((ev.polarity.bit.setWidth 32 <<< 22) ||| (ev.x.setWidth 32 <<< 11) ||| ev.y.setWidth 32) ++
    bytesOfTicks ev.timestamp

/-- The frame of an instruction: R78's inverse layout for the words, R80's codes for the commands. -/
def encode : Instr → Frame
  | .cdOff t x y => wordFrame (encodeCd .off t x y)
  | .cdOn t x y => wordFrame (encodeCd .on t x y)
  | .rsv2 p => wordFrame (encodeRsv 0x2 p)
  | .rsv3 p => wordFrame (encodeRsv 0x3 p)
  | .rsv4 p => wordFrame (encodeRsv 0x4 p)
  | .rsv5 p => wordFrame (encodeRsv 0x5 p)
  | .rsv6 p => wordFrame (encodeRsv 0x6 p)
  | .rsv7 p => wordFrame (encodeRsv 0x7 p)
  | .timeHigh h => wordFrame (encodeTh h)
  | .rsv9 p => wordFrame (encodeRsv 0x9 p)
  | .rsvA p => wordFrame (encodeRsv 0xA p)
  | .rsvB p => wordFrame (encodeRsv 0xB p)
  | .rsvC p => wordFrame (encodeRsv 0xC p)
  | .rsvD p => wordFrame (encodeRsv 0xD p)
  | .rsvE p => wordFrame (encodeRsv 0xE p)
  | .rsvF p => wordFrame (encodeRsv 0xF p)
  | .decodeWord w => commandFrame 0b001 (bytesOfWord w)
  | .decodeChunk bytes => commandFrame 0b010 bytes
  | .ingest events => commandFrame 0b011 (events.flatMap encodeEvent)
  | .snapshot now => commandFrame 0b100 (bytesOfTicks now)
  | .reset => commandFrame 0b101 []
  | .cmdRsv0 => commandFrame 0b000 []
  | .cmdRsv6 => commandFrame 0b110 []
  | .cmdRsv7 => commandFrame 0b111 []

/-! ## The opcode map (R79) -/

/-- One row of R79's opcode map: a word matches the row when `w & mask = value`. -/
structure OpcodeRow where
  mnemonic : String
  value    : Word
  mask     : Word
deriving DecidableEq, Repr, Inhabited

/-- A word matches a row (R79). -/
abbrev OpcodeRow.Matches (r : OpcodeRow) (w : Word) : Prop := w &&& r.mask = r.value

/-- The opcode map of EVT2 words (R79). -/
def opcodeRows : List OpcodeRow :=
  [ ⟨"CD_OFF", 0x00000000, 0xF0000000⟩, ⟨"CD_ON", 0x10000000, 0xF0000000⟩,
    ⟨"RSV_2", 0x20000000, 0xF0000000⟩, ⟨"RSV_3", 0x30000000, 0xF0000000⟩,
    ⟨"RSV_4", 0x40000000, 0xF0000000⟩, ⟨"RSV_5", 0x50000000, 0xF0000000⟩,
    ⟨"RSV_6", 0x60000000, 0xF0000000⟩, ⟨"RSV_7", 0x70000000, 0xF0000000⟩,
    ⟨"TIME_HIGH", 0x80000000, 0xF0000000⟩, ⟨"RSV_9", 0x90000000, 0xF0000000⟩,
    ⟨"RSV_A", 0xA0000000, 0xF0000000⟩, ⟨"RSV_B", 0xB0000000, 0xF0000000⟩,
    ⟨"RSV_C", 0xC0000000, 0xF0000000⟩, ⟨"RSV_D", 0xD0000000, 0xF0000000⟩,
    ⟨"RSV_E", 0xE0000000, 0xF0000000⟩, ⟨"RSV_F", 0xF0000000, 0xF0000000⟩ ]

/-- The mnemonic of an instruction (R79, R80). -/
def Instr.mnemonic : Instr → String
  | .cdOff _ _ _ => "CD_OFF"
  | .cdOn _ _ _ => "CD_ON"
  | .rsv2 _ => "RSV_2"
  | .rsv3 _ => "RSV_3"
  | .rsv4 _ => "RSV_4"
  | .rsv5 _ => "RSV_5"
  | .rsv6 _ => "RSV_6"
  | .rsv7 _ => "RSV_7"
  | .timeHigh _ => "TIME_HIGH"
  | .rsv9 _ => "RSV_9"
  | .rsvA _ => "RSV_A"
  | .rsvB _ => "RSV_B"
  | .rsvC _ => "RSV_C"
  | .rsvD _ => "RSV_D"
  | .rsvE _ => "RSV_E"
  | .rsvF _ => "RSV_F"
  | .decodeWord _ => "DECODE_WORD"
  | .decodeChunk _ => "DECODE_CHUNK"
  | .ingest _ => "INGEST"
  | .snapshot _ => "SNAPSHOT"
  | .reset => "RESET"
  | .cmdRsv0 => "CMD_RSV_0"
  | .cmdRsv6 => "CMD_RSV_6"
  | .cmdRsv7 => "CMD_RSV_7"

/-! ## Words of spec/opcode_table.json -/

/-- How many operand bytes follow a command code in a frame whose operand bits are all zero: the word of
DECODE_WORD, the tick count of SNAPSHOT, nothing for the others (an empty list of bytes or of events). -/
def zeroOperandBytes (cmd : BitVec 3) : Nat :=
  match cmd.toNat with
  | 0b001 => 4
  | 0b100 => 8
  | _ => 0

/-- The frame of an instruction whose bits are `w` as spec/opcode_table.json numbers them. A row of 32 bits is an EVT2
word; a shorter row is a command code, its operand bits zero. -/
def frameOfTable (nbits w : Nat) : Frame :=
  if 32 ≤ nbits then wordFrame (BitVec.ofNat 32 w)
  else
    let code : Byte := BitVec.ofNat 8 w
    ⟨.command, code :: List.replicate (zeroOperandBytes (code.setWidth 3)) 0⟩

/-- The instruction that the decoder reads from an instruction of the table whose bits are `w`. -/
def decodeTableWord (nbits w : Nat) : Option Instr :=
  match decode (frameOfTable nbits w) with
  | .ok i => some i
  | .error _ => none

end Sys2Proof
end

