-- ==== Sys2Proof/Machine/State.lean ====
section
/-! DEFINITION. The state of the block as plain data (spec/10_state.md R20 to R37), the reasons a step can stop
(spec/60_exceptions.md R178), and the state after reset, which is construction (spec/70_reset_and_hazards.md R190). -/

namespace Sys2Proof.Machine

/-- The raster memory (R25, R55) in canonical form: the non-zero channel bytes by linear index, indexes strictly
rising. An unlisted index reads as 0, the reset value of every channel (D16; log 13). -/
abbrev Memory := List Host.Cell

/-- The decoder (R20): its one source-defined register, the carry buffer, and its configuration register. -/
structure Decoder where
  /-- `dec.time_high` (R21) -/
  timeHigh    : BitVec 28
  /-- `dec.carry`: 0 to 3 bytes in stream order (R22) -/
  carry       : List Byte
  /-- `CARRY_POLICY` (R31) -/
  carryPolicy : CarryPolicy
deriving DecidableEq, Repr, Inhabited

/-- The painter: its configuration registers (R31) and its state (R25 to R30). -/
structure Painter where
  /-- `WIDTH` (R31) -/
  width            : Nat
  /-- `HEIGHT` (R31) -/
  height           : Nat
  /-- `DECAY_NUM` (R31): the decay rate is DECAY_NUM / 2^16 (D8) -/
  decayNum         : BitVec 17
  /-- `FPS_WINDOW` (R31): the capacity of the rolling window -/
  fpsCapacity      : Nat
  /-- `ON_COLOR` (R31) -/
  onColor          : Color
  /-- `OFF_COLOR` (R31) -/
  offColor         : Color
  /-- `TICK_HZ` (R31) -/
  tickHz           : Nat
  /-- `EPS` (R31; log 5) -/
  eps              : Eps
  /-- `FPS_INST` (R31): the name of the configured function (log 3) -/
  fpsInst          : Nat
  /-- `FPS_SMOOTH` (R31): the name of the configured function (log 3) -/
  fpsSmooth        : Nat
  /-- `acc.raster` (R25) -/
  raster           : Memory
  /-- `acc.event_count` (R27) -/
  eventCount       : BitVec 64
  /-- `acc.frame_count` (R28) -/
  frameCount       : BitVec 64
  /-- `acc.fps_window`: elapsed ticks, oldest first (R29) -/
  fpsWindow        : List Ticks
  /-- `acc.last_snapshot_time` (R30) -/
  lastSnapshotTime : Ticks
deriving DecidableEq, Repr, Inhabited

/-- SnapResp (R34, R141): what SNAPSHOT returns. -/
structure SnapResp where
  /-- the raster as it stood before decay -/
  raster     : Memory
  width      : Nat
  height     : Nat
  /-- the frame count after the increment (D15) -/
  frameCount : BitVec 64
  /-- the event count before its reset (D15) -/
  eventCount : BitVec 64
  fps        : FpsVal
deriving DecidableEq, Repr, Inhabited

/-- The response record of a transaction (R35). INGEST and RESET return nothing and have none. -/
inductive Response where
  /-- DECODE_WORD: an optional event (R105) -/
  | word (r : Option CDEvent)
  /-- DECODE_CHUNK: the events of the chunk, in stream order (R106, R107) -/
  | chunk (events : List CDEvent)
  /-- SNAPSHOT (R135) -/
  | snap (r : SnapResp)
deriving DecidableEq, Repr, Inhabited

/-- The model's faults (R178). -/
inductive Fault where
  /-- FAULT_TIME_BACKWARDS (R136, D13): raised by SNAPSHOT when `now < acc.last_snapshot_time`. Safe: the real block
  would compute some frame rate, which the source leaves undefined. -/
  | timeBackwards
deriving DecidableEq, Repr, Inhabited

/-- The model's refusals (R178 and the model's own). -/
inductive Refusal where
  /-- Raised by the dispatch for an instruction that has no meaning yet. Safe. No arm raises it. -/
  | notModelled (mnemonic : String)
  /-- REFUSE_CMD (R81, D25): raised by the reserved command codes 0b000, 0b110 and 0b111. Safe: no source gives them
  a meaning. -/
  | refuseCmd
  /-- REFUSE_CONFIG (R7, D26): raised by construction with a CFG outside its legal values. Safe: no instance exists. -/
  | refuseConfig
  /-- Raised by a step whose next frame holds no instruction (log 16). Safe: the frame is the model's own form, and no
  transaction of the spec has it. -/
  | malformedFrame (reason : DecodeError)
  /-- Raised by a collection of instances when a transaction is addressed to an instance that was never constructed
  (R195; log 28). Safe: there is no block to answer. -/
  | noInstance
deriving DecidableEq, Repr, Inhabited

/-- The sticky mark a fault or refusal leaves in the model state (R178; log 11). -/
inductive Mark where
  | fault (f : Fault)
  | refusal (r : Refusal)
deriving DecidableEq, Repr, Inhabited

/-- The state of the block and of its host interface. -/
structure State where
  /-- the decoder (R20) -/
  dec       : Decoder
  /-- the painter (R25 to R31) -/
  acc       : Painter
  /-- the decoder's output sequence, to which `Emit` appends (R10; log 9) -/
  out       : List CDEvent
  /-- the responses returned so far, in order (R10 `Respond`, R204; log 10) -/
  responses : List Response
  /-- the sticky fault or refusal mark (R178; log 11) -/
  mark      : Option Mark
  /-- the model's own field: what the host has issued and the block has not yet taken, in order (log 12) -/
  input     : List Frame
deriving DecidableEq, Repr, Inhabited

/-- The machine right after reset: construction (R190, R37) with the configuration `Cfg.atReset` and `now0 = 0`
(DESIGN CHOICE, unsafe, logs 1 and 2), and nothing issued yet. It is written out; that construction gives exactly
this is the statement `ResetStateIsAConstruction`. -/
def State.reset : State where
  dec := { timeHigh := 0, carry := [], carryPolicy := .carry }
  acc :=
    { width := 4
      height := 4
      decayNum := 32768
      fpsCapacity := 2
      onColor := ⟨255, 128, 7⟩
      offColor := ⟨1, 2, 3⟩
      tickHz := 1000000
      eps := .ratio 1 1000000
      fpsInst := 0
      fpsSmooth := 0
      raster := []
      eventCount := 0
      frameCount := 0
      fpsWindow := []
      lastSnapshotTime := 0 }
  out := []
  responses := []
  mark := none
  input := []

end Sys2Proof.Machine
end

