-- ==== Sys2Proof/Machine/Ops.lean ====
section
/-! DEFINITION. The named operations over the raster memory and over the state (spec/00_scope.md R10,
spec/20_memory.md R55 to R57, spec/41_painter.md R139). The block has no exception to take and none to return from
(spec/60_exceptions.md R170, R174, R175); its one outcome that leaves a trace is the sticky mark of R178, written
by `State.setMark`. -/

namespace Sys2Proof.Machine

/-! ## The raster memory -/

/-- What an unlisted channel reads as: 0, the reset value of every channel (R25, R37; D16). -/
def Memory.unlisted : Byte := 0

/-- One channel, by linear index. -/
def Memory.read : Memory → Nat → Byte
  | [], _ => Memory.unlisted
  | (b, u) :: m, a => if b = a then u else Memory.read m a

/-- Write one channel by linear index, keeping the canonical form: a channel written to what an unlisted one reads
as leaves the list. -/
def Memory.write : Memory → Nat → Byte → Memory
  | [], a, v => if v = Memory.unlisted then [] else [(a, v)]
  | (b, u) :: m, a, v =>
    if b < a then (b, u) :: Memory.write m a v
    else if b = a then (if v = Memory.unlisted then m else (a, v) :: m)
    else if v = Memory.unlisted then (b, u) :: m else (a, v) :: (b, u) :: m

/-- The canonical form: indexes strictly rising, and no entry equal to what an unlisted index reads as. -/
abbrev Memory.wf (m : Memory) : Prop :=
  m.Pairwise (fun p q => p.1 < q.1) ∧ ∀ c ∈ m, c.2 ≠ Memory.unlisted

/-- The linear index of channel `c` of pixel `(x, y)` (R55, D10): row-major, channels in the order of the colour. -/
def channelIndex (width x y c : Nat) : Nat := (y * width + x) * 3 + c

/-- `acc.raster[y][x] <- (c0, c1, c2)` (R10): the three channels of one pixel. -/
def Memory.paint (m : Memory) (width x y : Nat) (color : Color) : Memory :=
  ((m.write (channelIndex width x y 0) color.c0).write (channelIndex width x y 1) color.c1).write
    (channelIndex width x y 2) color.c2

/-- `decay(c) = floor(c × DECAY_NUM / 2^16)` (R139, D8): exact product, floor, back to a channel. -/
def decayByte (decayNum : BitVec 17) (c : Byte) : Byte :=
  BitVec.ofNat 8 (c.toNat * decayNum.toNat / 2 ^ 16)

/-- Decay one listed channel; one that decays to 0 leaves the list. -/
def decayCell (decayNum : BitVec 17) (cell : Host.Cell) : Option Host.Cell :=
  if decayByte decayNum cell.2 = Memory.unlisted then none else some (cell.1, decayByte decayNum cell.2)

/-- SNAPSHOT step 3 (R139): every channel of every pixel decays. An unlisted channel is 0 and stays 0. -/
def Memory.decay (m : Memory) (decayNum : BitVec 17) : Memory := m.filterMap (decayCell decayNum)

/-- RESET (R143): every channel of every pixel is 0. -/
def Memory.clear (_ : Memory) : Memory := []

/-- The serialized raster of a snapshot response (R55): HEIGHT × WIDTH × 3 channels in linear order. -/
def Memory.serialize (m : Memory) (width height : Nat) : List Byte :=
  (List.range (height * width * 3)).map m.read

/-! ## The state -/

/-- `Emit(ev)` (R10), for a word that emits at most one event. -/
def State.emit (s : State) (r : Option CDEvent) : State := { s with out := s.out ++ r.toList }

/-- Write the decoder. -/
def State.withDec (s : State) (d : Decoder) : State := { s with dec := d }

/-- Write the painter. -/
def State.withAcc (s : State) (p : Painter) : State := { s with acc := p }

/-- Open a decoder transaction's output sequence and fill it (R10, R105, R106; log 9). -/
def State.withOut (s : State) (events : List CDEvent) : State := { s with out := events }

/-- `Respond(r)` (R10). -/
def State.respond (s : State) (r : Response) : State := { s with responses := s.responses ++ [r] }

/-- Write what the host has issued and the block has not yet taken (log 12). -/
def State.withInput (s : State) (fs : List Frame) : State := { s with input := fs }

/-- Leave the sticky mark of R178; nothing else is written. -/
def State.setMark (s : State) (m : Mark) : State := { s with mark := some m }

/-- `dec.time_high <- v` (R10). -/
def Decoder.setTimeHigh (d : Decoder) (v : BitVec 28) : Decoder := { d with timeHigh := v }

/-- `dec.carry <- bytes` (R106). -/
def Decoder.setCarry (d : Decoder) (bytes : List Byte) : Decoder := { d with carry := bytes }

/-- The result of one word (R100) applied to the block: the next `time_high`, and at most one event emitted. -/
def State.applyWord (s : State) (r : BitVec 28 × Option CDEvent) : State :=
  (s.withDec (s.dec.setTimeHigh r.1)).emit r.2

end Sys2Proof.Machine
end

