-- ==== Sys2Proof/Machine/Operands.lean ====
section
/-! DEFINITION. The operands the meanings compute with: timestamp assembly (spec/30_encoding.md R75), the event of
a CD word (R101, R102), the number EPS stands for (spec/00_scope.md R5), the paint colour (spec/41_painter.md R131),
and how bytes are cut into words (R51 to R53). -/

namespace Sys2Proof.Machine

/-- `timestamp = zext_64((zext_34(time_high) << 6) | zext_34(t_low))` (R75). -/
def timestamp (timeHigh : BitVec 28) (tLow : BitVec 6) : BitVec 64 :=
  ((timeHigh.setWidth 34 <<< 6) ||| tLow.setWidth 34).setWidth 64

/-- The event of a CD word (R101, R102) under the current `time_high`. -/
def cdEvent (polarity : Polarity) (timeHigh : BitVec 28) (tLow : BitVec 6) (x y : BitVec 11) : CDEvent :=
  { x, y, polarity, timestamp := timestamp timeHigh tLow }

/-- The number that an EPS register stands for (R5; log 5). -/
def epsValue : Eps → ℝ
  | .ratio num den => ((num / den : ℚ) : ℝ)
  | .real name => (Config.epsRoot name : ℝ) * Config.epsRoot name

/-- The colour keyed by polarity (R131). -/
def Painter.colorOf (p : Painter) : Polarity → Color
  | .on => p.onColor
  | .off => p.offColor

/-- Cut bytes into the words they complete, in stream order, and the 0 to 3 bytes that complete none (R51 to R53,
R106). -/
def splitWords : List Byte → List Word × List Byte
  | b0 :: b1 :: b2 :: b3 :: rest =>
    let r := splitWords rest
    (le32 b0 b1 b2 b3 :: r.1, r.2)
  | tail => ([], tail)

end Sys2Proof.Machine
end

