-- ==== Sys2Proof/Machine/Flags.lean ====
section
/-! DEFINITION. The block has no flags, condition codes or predicates (spec/10_state.md R24): "every condition the
pseudocode tests is computed from the input word or from an event's coordinates inside one transaction". These are
the conditions it tests. -/

namespace Sys2Proof.Machine

/-- `in_bounds(x, y) = (x < WIDTH) ∧ (y < HEIGHT)` (R132). -/
def Painter.inBounds (p : Painter) (x y : BitVec 11) : Bool :=
  decide (x.toNat < p.width) && decide (y.toNat < p.height)

/-- The window already holds FPS_WINDOW entries (R135, R137). -/
def Painter.windowFull (p : Painter) : Bool := p.fpsWindow.length == p.fpsCapacity

/-- `now < acc.last_snapshot_time` (R135, R136), as unsigned tick counts. -/
def Painter.timeBackwards (p : Painter) (now : Ticks) : Bool := decide (now.toNat < p.lastSnapshotTime.toNat)

end Sys2Proof.Machine
end

