-- ==== Sys2Proof/Machine/EventWords.lean ====
section
/-! DEFINITION. The EVT2 words that carry a record: CD_OFF, CD_ON and TIME_HIGH (spec/40_decoder.md R101 to R103).
Each has its arm of `step_word` (R100), which the decoder's transactions run on every word, and its meaning as an
instruction of its own (log 8). -/

namespace Sys2Proof.Machine

/-- The CD_OFF arm of `step_word` (R101). -/
def wordCdOff (th : BitVec 28) (tLow : BitVec 6) (x y : BitVec 11) : BitVec 28 × Option CDEvent :=
  (th, some (cdEvent .off th tLow x y))

/-- The CD_ON arm of `step_word` (R102). -/
def wordCdOn (th : BitVec 28) (tLow : BitVec 6) (x y : BitVec 11) : BitVec 28 × Option CDEvent :=
  (th, some (cdEvent .on th tLow x y))

/-- The TIME_HIGH arm of `step_word` (R103): the payload replaces `time_high`, and nothing is emitted. -/
def wordTimeHigh (_th h : BitVec 28) : BitVec 28 × Option CDEvent := (h, none)

/-- CD_OFF (R101). -/
def execCdOff (tLow : BitVec 6) (x y : BitVec 11) (s : State) : Host.Outcome State Fault Refusal :=
  .next (s.applyWord (wordCdOff s.dec.timeHigh tLow x y))

/-- CD_ON (R102). -/
def execCdOn (tLow : BitVec 6) (x y : BitVec 11) (s : State) : Host.Outcome State Fault Refusal :=
  .next (s.applyWord (wordCdOn s.dec.timeHigh tLow x y))

/-- TIME_HIGH (R103). -/
def execTimeHigh (h : BitVec 28) (s : State) : Host.Outcome State Fault Refusal :=
  .next (s.applyWord (wordTimeHigh s.dec.timeHigh h))

end Sys2Proof.Machine
end

