-- ==== Sys2Proof/Machine/ReservedWords.lean ====
section
/-! DEFINITION. The thirteen reserved EVT2 tags (spec/30_encoding.md R74, spec/40_decoder.md R104): each is a defined
no-op. Each has its own arm of `step_word` and its own meaning over the one shared rule. -/

namespace Sys2Proof.Machine

/-- R104: `time_high` is returned as it is and nothing is emitted. -/
def reservedWord (th : BitVec 28) : BitVec 28 × Option CDEvent := (th, none)

/-- The RSV_2 arm of `step_word` (R104). -/
def wordRsv2 (th _payload : BitVec 28) : BitVec 28 × Option CDEvent := reservedWord th

/-- RSV_2 (R104). -/
def execRsv2 (payload : BitVec 28) (s : State) : Host.Outcome State Fault Refusal :=
  .next (s.applyWord (wordRsv2 s.dec.timeHigh payload))

/-- The RSV_3 arm of `step_word` (R104). -/
def wordRsv3 (th _payload : BitVec 28) : BitVec 28 × Option CDEvent := reservedWord th

/-- RSV_3 (R104). -/
def execRsv3 (payload : BitVec 28) (s : State) : Host.Outcome State Fault Refusal :=
  .next (s.applyWord (wordRsv3 s.dec.timeHigh payload))

/-- The RSV_4 arm of `step_word` (R104). -/
def wordRsv4 (th _payload : BitVec 28) : BitVec 28 × Option CDEvent := reservedWord th

/-- RSV_4 (R104). -/
def execRsv4 (payload : BitVec 28) (s : State) : Host.Outcome State Fault Refusal :=
  .next (s.applyWord (wordRsv4 s.dec.timeHigh payload))

/-- The RSV_5 arm of `step_word` (R104). -/
def wordRsv5 (th _payload : BitVec 28) : BitVec 28 × Option CDEvent := reservedWord th

/-- RSV_5 (R104). -/
def execRsv5 (payload : BitVec 28) (s : State) : Host.Outcome State Fault Refusal :=
  .next (s.applyWord (wordRsv5 s.dec.timeHigh payload))

/-- The RSV_6 arm of `step_word` (R104). -/
def wordRsv6 (th _payload : BitVec 28) : BitVec 28 × Option CDEvent := reservedWord th

/-- RSV_6 (R104). -/
def execRsv6 (payload : BitVec 28) (s : State) : Host.Outcome State Fault Refusal :=
  .next (s.applyWord (wordRsv6 s.dec.timeHigh payload))

/-- The RSV_7 arm of `step_word` (R104). -/
def wordRsv7 (th _payload : BitVec 28) : BitVec 28 × Option CDEvent := reservedWord th

/-- RSV_7 (R104). -/
def execRsv7 (payload : BitVec 28) (s : State) : Host.Outcome State Fault Refusal :=
  .next (s.applyWord (wordRsv7 s.dec.timeHigh payload))

/-- The RSV_9 arm of `step_word` (R104). -/
def wordRsv9 (th _payload : BitVec 28) : BitVec 28 × Option CDEvent := reservedWord th

/-- RSV_9 (R104). -/
def execRsv9 (payload : BitVec 28) (s : State) : Host.Outcome State Fault Refusal :=
  .next (s.applyWord (wordRsv9 s.dec.timeHigh payload))

/-- The RSV_A arm of `step_word` (R104). -/
def wordRsvA (th _payload : BitVec 28) : BitVec 28 × Option CDEvent := reservedWord th

/-- RSV_A (R104). -/
def execRsvA (payload : BitVec 28) (s : State) : Host.Outcome State Fault Refusal :=
  .next (s.applyWord (wordRsvA s.dec.timeHigh payload))

/-- The RSV_B arm of `step_word` (R104). -/
def wordRsvB (th _payload : BitVec 28) : BitVec 28 × Option CDEvent := reservedWord th

/-- RSV_B (R104). -/
def execRsvB (payload : BitVec 28) (s : State) : Host.Outcome State Fault Refusal :=
  .next (s.applyWord (wordRsvB s.dec.timeHigh payload))

/-- The RSV_C arm of `step_word` (R104). -/
def wordRsvC (th _payload : BitVec 28) : BitVec 28 × Option CDEvent := reservedWord th

/-- RSV_C (R104). -/
def execRsvC (payload : BitVec 28) (s : State) : Host.Outcome State Fault Refusal :=
  .next (s.applyWord (wordRsvC s.dec.timeHigh payload))

/-- The RSV_D arm of `step_word` (R104). -/
def wordRsvD (th _payload : BitVec 28) : BitVec 28 × Option CDEvent := reservedWord th

/-- RSV_D (R104). -/
def execRsvD (payload : BitVec 28) (s : State) : Host.Outcome State Fault Refusal :=
  .next (s.applyWord (wordRsvD s.dec.timeHigh payload))

/-- The RSV_E arm of `step_word` (R104). -/
def wordRsvE (th _payload : BitVec 28) : BitVec 28 × Option CDEvent := reservedWord th

/-- RSV_E (R104). -/
def execRsvE (payload : BitVec 28) (s : State) : Host.Outcome State Fault Refusal :=
  .next (s.applyWord (wordRsvE s.dec.timeHigh payload))

/-- The RSV_F arm of `step_word` (R104). -/
def wordRsvF (th _payload : BitVec 28) : BitVec 28 × Option CDEvent := reservedWord th

/-- RSV_F (R104). -/
def execRsvF (payload : BitVec 28) (s : State) : Host.Outcome State Fault Refusal :=
  .next (s.applyWord (wordRsvF s.dec.timeHigh payload))

end Sys2Proof.Machine
end

