-- ==== Sys2Proof/Machine/DecoderCommands.lean ====
section
/-! DEFINITION. The decoder's transactions DECODE_WORD and DECODE_CHUNK (spec/40_decoder.md R100, R105 to R107). -/

namespace Sys2Proof.Machine

/-- The arms of `step_word`, by instruction (R100). A host command is no word: `decodeEvt2` never answers one
(`decodeEvt2_isWord`), and here it would do nothing. -/
def stepInstr (th : BitVec 28) : Instr → BitVec 28 × Option CDEvent
  | .cdOff t x y => wordCdOff th t x y
  | .cdOn t x y => wordCdOn th t x y
  | .timeHigh h => wordTimeHigh th h
  | .rsv2 p => wordRsv2 th p
  | .rsv3 p => wordRsv3 th p
  | .rsv4 p => wordRsv4 th p
  | .rsv5 p => wordRsv5 th p
  | .rsv6 p => wordRsv6 th p
  | .rsv7 p => wordRsv7 th p
  | .rsv9 p => wordRsv9 th p
  | .rsvA p => wordRsvA th p
  | .rsvB p => wordRsvB th p
  | .rsvC p => wordRsvC th p
  | .rsvD p => wordRsvD th p
  | .rsvE p => wordRsvE th p
  | .rsvF p => wordRsvF th p
  | .decodeWord _ | .decodeChunk _ | .ingest _ | .snapshot _ | .reset => (th, none)
  | .cmdRsv0 | .cmdRsv6 | .cmdRsv7 => (th, none)

/-- `step_word(th, w)` (R100): the next `time_high` and at most one event. -/
def stepWord (th : BitVec 28) (w : Word) : BitVec 28 × Option CDEvent := stepInstr th (decodeEvt2 w)

/-- The loop of R106 and R107: the words in stream order, the events in arrival order. -/
def stepWords (th : BitVec 28) : List Word → BitVec 28 × List CDEvent
  | [] => (th, [])
  | w :: ws =>
    let r := stepWord th w
    let rest := stepWords r.1 ws
    (rest.1, r.2.toList ++ rest.2)

/-- DECODE_WORD on a decoder (R105): `dec.carry` is neither read nor written (D6). -/
def Decoder.decodeWord (d : Decoder) (w : Word) : Decoder × Option CDEvent :=
  let r := stepWord d.timeHigh w
  (d.setTimeHigh r.1, r.2)

/-- DECODE_CHUNK under CARRY_POLICY = carry (R106): the bytes that complete no word wait in `dec.carry`. -/
def Decoder.chunkCarry (d : Decoder) (bytes : List Byte) : Decoder × List CDEvent :=
  let buf := splitWords (d.carry ++ bytes)
  let r := stepWords d.timeHigh buf.1
  ((d.setTimeHigh r.1).setCarry buf.2, r.2)

/-- DECODE_CHUNK under CARRY_POLICY = drop (R107): the bytes that complete no word are discarded, and `dec.carry` is
not written. -/
def Decoder.chunkDrop (d : Decoder) (bytes : List Byte) : Decoder × List CDEvent :=
  let r := stepWords d.timeHigh (splitWords bytes).1
  (d.setTimeHigh r.1, r.2)

/-- DECODE_CHUNK on a decoder, by its CARRY_POLICY register (R106, R107; D4). -/
def Decoder.decodeChunk (d : Decoder) (bytes : List Byte) : Decoder × List CDEvent :=
  match d.carryPolicy with
  | .carry => d.chunkCarry bytes
  | .drop => d.chunkDrop bytes

/-- DECODE_WORD (R105). -/
def execDecodeWord (w : Word) (s : State) : Host.Outcome State Fault Refusal :=
  let r := s.dec.decodeWord w
  .next (((s.withDec r.1).withOut r.2.toList).respond (.word r.2))

/-- DECODE_CHUNK (R106, R107). -/
def execDecodeChunk (bytes : List Byte) (s : State) : Host.Outcome State Fault Refusal :=
  let r := s.dec.decodeChunk bytes
  .next (((s.withDec r.1).withOut r.2).respond (.chunk r.2))

end Sys2Proof.Machine
end

