-- ==== Sys2Proof/Machine/PainterCommands.lean ====
section
/-! DEFINITION. The painter's transactions INGEST, SNAPSHOT and RESET (spec/41_painter.md R130 to R143). -/

namespace Sys2Proof.Machine

/-! ## INGEST -/

/-- The paint of an in-bounds event (R131, R133): one pixel overwritten with the polarity colour, one event counted
modulo 2^64 (D11). The timestamp is not read (R134). -/
def Painter.paintEvent (p : Painter) (ev : CDEvent) : Painter :=
  { p with
    raster := p.raster.paint p.width ev.x.toNat ev.y.toNat (p.colorOf ev.polarity)
    eventCount := p.eventCount + 1 }

/-- `ingest_one(ev)` (R131): an out-of-bounds event changes nothing. -/
def Painter.ingestOne (p : Painter) (ev : CDEvent) : Painter :=
  if p.inBounds ev.x ev.y then p.paintEvent ev else p

/-- INGEST on a painter (R130): the events in list order. -/
def Painter.ingest (p : Painter) (events : List CDEvent) : Painter := events.foldl Painter.ingestOne p

/-- INGEST (R130). There is no response. -/
def execIngest (events : List CDEvent) (s : State) : Host.Outcome State Fault Refusal :=
  .next (s.withAcc (s.acc.ingest events))

/-! ## SNAPSHOT -/

/-- The elapsed time of step 1 (R136). -/
def Painter.elapsed (p : Painter) (now : Ticks) : Ticks := now - p.lastSnapshotTime

/-- The window after step 1 (R137): the oldest entry goes first when it is full, then the newest is appended. -/
def Painter.pushWindow (p : Painter) (e : Ticks) : List Ticks :=
  (if p.windowFull then p.fpsWindow.drop 1 else p.fpsWindow) ++ [e]

/-- `FPS_SMOOTH([FPS_INST(v) for v in window])` (R135, R142), over any number type and any two functions. -/
def smoothedRate {β : Type} (inst : Ticks → β) (smooth : List β → β) (window : List Ticks) : β :=
  smooth (window.map inst)

/-- The rate a painter reports for a window: its configured functions, which the spec leaves OPEN (R142; log 3). -/
def Painter.fps (p : Painter) (window : List Ticks) : FpsVal :=
  smoothedRate (Config.fpsInst p.fpsInst p.tickHz (epsValue p.eps)) (Config.fpsSmooth p.fpsSmooth) window

/-- The spec's default FPS_INST (R142): `1 / (e / TICK_HZ + EPS)`, over any field, before any rounding. -/
def defaultFpsInst {K : Type} [Field K] (tickHz : Nat) (eps : K) (e : Ticks) : K :=
  1 / ((e.toNat : K) / tickHz + eps)

/-- The spec's default FPS_SMOOTH (R142): the arithmetic mean, over any field, before any rounding. -/
def defaultFpsSmooth {K : Type} [Field K] (vs : List K) : K := vs.sum / vs.length

/-- SNAPSHOT step 1 (R136, R137): the frame-rate sample. -/
def Painter.sample (p : Painter) (now : Ticks) : Painter :=
  { p with fpsWindow := p.pushWindow (p.elapsed now), lastSnapshotTime := now }

/-- SNAPSHOT step 3 (R139). -/
def Painter.decayRaster (p : Painter) : Painter := { p with raster := p.raster.decay p.decayNum }

/-- SNAPSHOT step 4 (R140): the frame count wraps modulo 2^64 (D11). -/
def Painter.countFrame (p : Painter) : Painter :=
  { p with frameCount := p.frameCount + 1, eventCount := 0 }

/-- The response of a SNAPSHOT (R141): the raster and the event count as `before` (step 1's painter) has them, the
frame count as `after` (step 4's painter) has it, and the rate of the window after the push. -/
def snapResponse (before after : Painter) : SnapResp where
  raster := before.raster
  width := before.width
  height := before.height
  frameCount := after.frameCount
  eventCount := before.eventCount
  fps := before.fps before.fpsWindow

/-- SNAPSHOT on a painter whose time does not run backwards (R135): steps 1 to 4 in order, and the response. -/
def Painter.snapshot (p : Painter) (now : Ticks) : Painter × SnapResp :=
  let sampled := p.sample now
  let counted := sampled.decayRaster.countFrame
  (counted, snapResponse sampled counted)

/-- SNAPSHOT (R135): the model faults, writing nothing, on a `now` that runs backwards (R136, R178). -/
def execSnapshot (now : Ticks) (s : State) : Host.Outcome State Fault Refusal :=
  if s.acc.timeBackwards now then .fault .timeBackwards
  else
    let r := s.acc.snapshot now
    .next ((s.withAcc r.1).respond (.snap r.2))

/-! ## RESET -/

/-- RESET on a painter (R143): the raster and the event count, and nothing else (D31, R194). -/
def Painter.reset (p : Painter) : Painter := { p with raster := p.raster.clear, eventCount := 0 }

/-- RESET (R143). There is no response. -/
def execReset (s : State) : Host.Outcome State Fault Refusal := .next (s.withAcc s.acc.reset)

end Sys2Proof.Machine
end

