-- ==== Sys2Proof/Machine/ReservedCommands.lean ====
section
/-! DEFINITION. The reserved command codes 0b000, 0b110 and 0b111 (spec/30_encoding.md R81, D25): "a reserved command
code has no meaning: no source gives it one". Each is refused and writes no state. -/

namespace Sys2Proof.Machine

/-- R178: a transaction with a reserved command code is the refusal REFUSE_CMD. -/
def refuseCommand (_ : State) : Host.Outcome State Fault Refusal := .refused .refuseCmd

/-- CMD_RSV_0 (R81). -/
def execCmdRsv0 (s : State) : Host.Outcome State Fault Refusal := refuseCommand s

/-- CMD_RSV_6 (R81). -/
def execCmdRsv6 (s : State) : Host.Outcome State Fault Refusal := refuseCommand s

/-- CMD_RSV_7 (R81). -/
def execCmdRsv7 (s : State) : Host.Outcome State Fault Refusal := refuseCommand s

end Sys2Proof.Machine
end

