-- ==== Sys2Proof/Machine/Dispatch.lean ====
section
/-! DEFINITION. The dispatch: one arm per row of spec/opcode_table.json. -/

namespace Sys2Proof.Machine

def exec (i : Instr) (s : State) : Host.Outcome State Fault Refusal :=
  match i with
  | .cdOff tLow x y => Sys2Proof.Machine.execCdOff tLow x y s
  | .cdOn tLow x y => Sys2Proof.Machine.execCdOn tLow x y s
  | .rsv2 payload => Sys2Proof.Machine.execRsv2 payload s
  | .rsv3 payload => Sys2Proof.Machine.execRsv3 payload s
  | .rsv4 payload => Sys2Proof.Machine.execRsv4 payload s
  | .rsv5 payload => Sys2Proof.Machine.execRsv5 payload s
  | .rsv6 payload => Sys2Proof.Machine.execRsv6 payload s
  | .rsv7 payload => Sys2Proof.Machine.execRsv7 payload s
  | .timeHigh h => Sys2Proof.Machine.execTimeHigh h s
  | .rsv9 payload => Sys2Proof.Machine.execRsv9 payload s
  | .rsvA payload => Sys2Proof.Machine.execRsvA payload s
  | .rsvB payload => Sys2Proof.Machine.execRsvB payload s
  | .rsvC payload => Sys2Proof.Machine.execRsvC payload s
  | .rsvD payload => Sys2Proof.Machine.execRsvD payload s
  | .rsvE payload => Sys2Proof.Machine.execRsvE payload s
  | .rsvF payload => Sys2Proof.Machine.execRsvF payload s
  | .decodeWord w => Sys2Proof.Machine.execDecodeWord w s
  | .decodeChunk bytes => Sys2Proof.Machine.execDecodeChunk bytes s
  | .ingest events => Sys2Proof.Machine.execIngest events s
  | .snapshot now => Sys2Proof.Machine.execSnapshot now s
  | .reset => Sys2Proof.Machine.execReset s
  | .cmdRsv0 => Sys2Proof.Machine.execCmdRsv0 s
  | .cmdRsv6 => Sys2Proof.Machine.execCmdRsv6 s
  | .cmdRsv7 => Sys2Proof.Machine.execCmdRsv7 s

end Sys2Proof.Machine
end

