-- ==== Sys2Proof/Machine/Fetch.lean ====
section
/-! DEFINITION. How the machine takes its next instruction. The block has no program counter and no instruction
memory (spec/10_state.md R23, spec/20_memory.md R61): the host issues one transaction at a time (R35, R58), so the
next instruction is the first frame of what the host has issued (log 12). -/

namespace Sys2Proof.Machine

/-- What a step finds before it runs anything. -/
inductive Fetched where
  /-- the sticky mark is set: the machine has stopped (R178) -/
  | stopped (m : Mark)
  /-- nothing is pending: between transactions the block does nothing (R183) -/
  | idle
  /-- the next frame holds no instruction (log 16) -/
  | malformed (reason : DecodeError)
  /-- the next instruction, and the state with its frame taken -/
  | instr (i : Instr) (s : State)
deriving DecidableEq, Repr

/-- Take the first pending frame and decode it. -/
def fetch (s : State) : Fetched :=
  match s.mark with
  | some m => .stopped m
  | none =>
    match s.input with
    | [] => .idle
    | f :: rest =>
      match decode f with
      | .error e => .malformed e
      | .ok i => .instr i (s.withInput rest)

/-- The outcome of a machine whose sticky mark is set: the same outcome again (R178). -/
def stoppedOutcome {σ : Type} : Mark → Host.Outcome σ Fault Refusal
  | .fault f => .fault f
  | .refusal r => .refused r

/-- Put one frame at the head of what the host has issued. -/
def State.issueFirst (s : State) (f : Frame) : State := s.withInput (f :: s.input)

end Sys2Proof.Machine
end

