-- ==== Sys2Proof/Machine/Step.lean ====
section
/-! DEFINITION. One step: the next transaction or word that the host has issued, run whole (spec/00_scope.md R11,
spec/20_memory.md R58). With nothing pending the step idles (R183). -/

namespace Sys2Proof.Machine

/-- One step of the machine. -/
def step (s : State) : Host.Outcome State Fault Refusal :=
  match fetch s with
  | .stopped m => stoppedOutcome m
  | .idle => .next s
  | .malformed e => .refused (.malformedFrame e)
  | .instr i t => exec i t

/-- The state with an instruction of spec/opcode_table.json, whose bits are `w`, put at the head of what the host has
issued, where the next step takes it (log 12). -/
def State.withFetchWord (s : State) (nbits w : Nat) : State := s.issueFirst (frameOfTable nbits w)

end Sys2Proof.Machine
end

