-- ==== Sys2Proof/Machine/Construct.lean ====
section
/-! DEFINITION. Construction, the block's hardware reset (spec/70_reset_and_hazards.md R190 to R195), and the legal
configurations (spec/00_scope.md R5, R7). A decoder's construction uses only CARRY_POLICY, a painter's the rest of
CFG and `now0` (R192). -/

namespace Sys2Proof.Machine

/-- A colour channel is in [0, 2^CHAN_BITS − 1] (R5). -/
abbrev CfgColorLegal (chanBits : Nat) (c : CfgColor) : Prop :=
  c.c0 ≤ 2 ^ chanBits - 1 ∧ c.c1 ≤ 2 ^ chanBits - 1 ∧ c.c2 ≤ 2 ^ chanBits - 1

/-- Whether the number EPS stands for is above 0 (R5): a named EPS always is, and a fraction is when both its parts
are (`epsLegal_iff`; log 5). -/
def epsLegal : Eps → Bool
  | .ratio num den => decide (0 < num) && decide (0 < den)
  | .real _ => true

/-- EPS is legal (R5). -/
abbrev EpsLegal (e : Eps) : Prop := epsLegal e = true

/-- The legal values of R5's table. Either CARRY_POLICY and every total FPS_INST and FPS_SMOOTH are legal; the widths
the spec fixes are legal at their one value (log 19). -/
abbrev CfgLegal (cfg : Cfg) : Prop :=
  1 ≤ cfg.width ∧ 1 ≤ cfg.height ∧
  1 ≤ cfg.decayNum ∧ cfg.decayNum ≤ 65536 ∧ cfg.decayFrac = 16 ∧
  1 ≤ cfg.fpsWindow ∧ EpsLegal cfg.eps ∧ 1 ≤ cfg.tickHz ∧
  CfgColorLegal cfg.chanBits cfg.onColor ∧ CfgColorLegal cfg.chanBits cfg.offColor ∧ cfg.offColor ≠ cfg.onColor ∧
  cfg.chanBits = 8 ∧ cfg.cntBits = 64 ∧ cfg.timeBits = 64 ∧ cfg.tsBits = 64

/-- A colour register from its configuration. -/
def colorRegister (c : CfgColor) : Color :=
  ⟨BitVec.ofNat 8 c.c0, BitVec.ofNat 8 c.c1, BitVec.ofNat 8 c.c2⟩

/-- The value of the CARRY_POLICY register (R31): 1 bit, 0 = carry, 1 = drop. -/
def carryPolicyBit : CarryPolicy → BitVec 1
  | .carry => 0
  | .drop => 1

/-- A fresh decoder (R190, R192). -/
def constructDecoder (policy : CarryPolicy) : Decoder :=
  { timeHigh := 0, carry := [], carryPolicy := policy }

/-- A fresh painter of a legal configuration (R190, R192). -/
def constructPainter (cfg : Cfg) (now0 : Ticks) : Painter :=
  { width := cfg.width
    height := cfg.height
    decayNum := BitVec.ofNat 17 cfg.decayNum
    fpsCapacity := cfg.fpsWindow
    onColor := colorRegister cfg.onColor
    offColor := colorRegister cfg.offColor
    tickHz := cfg.tickHz
    eps := cfg.eps
    fpsInst := cfg.fpsInst
    fpsSmooth := cfg.fpsSmooth
    raster := []
    eventCount := 0
    frameCount := 0
    fpsWindow := []
    lastSnapshotTime := now0 }

/-- The block right after construction with a legal configuration (R37): nothing output, returned, marked or
issued. -/
def constructed (cfg : Cfg) (now0 : Ticks) : State :=
  { dec := constructDecoder cfg.carryPolicy
    acc := constructPainter cfg now0
    out := []
    responses := []
    mark := none
    input := [] }

/-- `construct(CFG, now0)` (R190): an illegal CFG is refused and no instance exists (R7, R178). -/
def construct (cfg : Cfg) (now0 : Ticks) : Host.Outcome State Fault Refusal :=
  if CfgLegal cfg then .next (constructed cfg now0) else .refused .refuseConfig

end Sys2Proof.Machine
end

