-- ==== Sys2Proof/Machine/Run.lean ====
section
/-! DEFINITION. Runs (spec/70_reset_and_hazards.md R204): construction followed by a finite list of host
transactions, and what is observed of it. The sticky mark of spec/60_exceptions.md R178 is set here, where an outcome
is turned into the state it leaves (log 11). -/

namespace Sys2Proof.Machine

/-- The state an outcome leaves (R178): a fault or refusal sets the sticky mark and writes nothing else. -/
def settle (before : State) : Host.Outcome State Fault Refusal → State
  | .next after => after
  | .fault f => before.setMark (.fault f)
  | .refused r => before.setMark (.refusal r)

/-- One step as a total function on states. -/
def advance (s : State) : State := settle s (step s)

/-- One transaction as a total function on states. A marked machine takes no further transaction (R177, R178). -/
def transact (i : Instr) (s : State) : State :=
  match s.mark with
  | some _ => s
  | none => settle s (exec i s)

/-- A list of transactions on one block, in order (R58, R204), stopping at the first fault or refusal. -/
def execAll : List Instr → State → Host.Outcome State Fault Refusal
  | [], s => .next s
  | i :: is, s =>
    match exec i s with
    | .next t => execAll is t
    | .fault f => .fault f
    | .refused r => .refused r

/-- The observation of a run (R204): the responses and the final state, or the mark alone. -/
inductive Observation where
  | completed (responses : List Response) (final : State)
  | marked (m : Mark)
deriving DecidableEq, Repr

/-- What is observed of an outcome (R204). -/
def observe : Host.Outcome State Fault Refusal → Observation
  | .next s => .completed s.responses s
  | .fault f => .marked (.fault f)
  | .refused r => .marked (.refusal r)

/-- A run (R204): construction, then the transactions in order. -/
def run (cfg : Cfg) (now0 : Ticks) (is : List Instr) : Observation :=
  match construct cfg now0 with
  | .next s => observe (execAll is s)
  | .fault f => .marked (.fault f)
  | .refused r => .marked (.refusal r)

/-- The events a decoder response carries. -/
def Response.events : Response → List CDEvent
  | .word r => r.toList
  | .chunk evs => evs
  | .snap _ => []

end Sys2Proof.Machine
end

