-- ==== Sys2Proof/Machine/Assembler.lean ====
section
/-! DEFINITION. The assembler lines and pseudo-instructions of spec/30_encoding.md R82 and R83 (D24), as structured
lines: what each line assembles to, and which operands are an assembly error (log 21). -/

namespace Sys2Proof.Machine

/-- One line of a listing (R82), or a pseudo-instruction that stands for lines (R83). Operands are unchecked
numbers. -/
inductive AsmLine where
  /-- `CDOFF x=, y=, t=` -/
  | cdoff (x y t : Nat)
  /-- `CDON x=, y=, t=` -/
  | cdon (x y t : Nat)
  /-- `TH h=` -/
  | th (h : Nat)
  /-- `RSV tag=, p=` -/
  | rsv (tag p : Nat)
  /-- `.word 0xHHHHHHHH` -/
  | word (w : Nat)
  /-- `.byte b, …` -/
  | byte (bs : List Nat)
  /-- `EV pol=, x=, y=, ts=` (R83) -/
  | ev (pol : Polarity) (x y ts : Nat)
  /-- `NOPW` (R83) -/
  | nopw
deriving DecidableEq, Repr, Inhabited

/-- One upper-case hexadecimal digit. -/
def hexDigit (n : Nat) : String := (["0", "1", "2", "3", "4", "5", "6", "7", "8", "9", "A", "B", "C", "D", "E", "F"])[n % 16]!

/-- `0xHHHHHHHH` (R82): eight hexadecimal digits. -/
def hexWord (w : Nat) : String :=
  (List.range 8).foldl (fun acc k => acc ++ hexDigit (w / 16 ^ (7 - k))) "0x"

/-- How a line is written (R82, R83). A raw byte and a tag are written in decimal. -/
def AsmLine.text : AsmLine → String
  | .cdoff x y t => "CDOFF x=" ++ toString x ++ ", y=" ++ toString y ++ ", t=" ++ toString t
  | .cdon x y t => "CDON x=" ++ toString x ++ ", y=" ++ toString y ++ ", t=" ++ toString t
  | .th h => "TH h=" ++ toString h
  | .rsv tag p => "RSV tag=" ++ toString tag ++ ", p=" ++ toString p
  | .word w => ".word " ++ hexWord w
  | .byte bs => ".byte " ++ ", ".intercalate (bs.map toString)
  | .ev pol x y ts => "EV pol=" ++ (if pol = .on then "ON" else "OFF") ++ ", x=" ++ toString x ++ ", y=" ++
      toString y ++ ", ts=" ++ toString ts
  | .nopw => "NOPW"

/-- The tags of R74. -/
def reservedTags : List Nat := [0x2, 0x3, 0x4, 0x5, 0x6, 0x7, 0x9, 0xA, 0xB, 0xC, 0xD, 0xE, 0xF]

/-- A CD line (R82): `encode_cd`, or an assembly error. -/
def assembleCd (pol : Polarity) (x y t : Nat) : Option Word :=
  if x ≤ 2047 ∧ y ≤ 2047 ∧ t ≤ 63 then
    some (encodeCd pol (BitVec.ofNat 6 t) (BitVec.ofNat 11 x) (BitVec.ofNat 11 y))
  else none

/-- A TH line (R82): `encode_th`, or an assembly error. -/
def assembleTh (h : Nat) : Option Word :=
  if h < 2 ^ 28 then some (encodeTh (BitVec.ofNat 28 h)) else none

/-- An RSV line (R82), or an assembly error. -/
def assembleRsv (tag p : Nat) : Option Word :=
  if tag ∈ reservedTags ∧ p < 2 ^ 28 then some (encodeRsv (BitVec.ofNat 4 tag) (BitVec.ofNat 28 p)) else none

/-- `EV` (R83): `TH h=T[33:6]`, then the CD line with `t=T[5:0]`. -/
def assembleEv (pol : Polarity) (x y ts : Nat) : Option (List Word) :=
  if ts < 2 ^ 34 then
    match assembleTh (ts / 64), assembleCd pol x y (ts % 64) with
    | some a, some b => some [a, b]
    | _, _ => none
  else none

/-- The bytes of words, each little-endian (R82, R51). -/
def bytesOfWords (ws : List Word) : List Byte := ws.flatMap bytesOfWord

/-- What one line assembles to (R82, R83); `none` is an assembly error. -/
def assembleLine : AsmLine → Option (List Byte)
  | .cdoff x y t => (assembleCd .off x y t).map bytesOfWord
  | .cdon x y t => (assembleCd .on x y t).map bytesOfWord
  | .th h => (assembleTh h).map bytesOfWord
  | .rsv tag p => (assembleRsv tag p).map bytesOfWord
  | .word w => if w < 2 ^ 32 then some (bytesOfWord (BitVec.ofNat 32 w)) else none
  | .byte bs => if ∀ b ∈ bs, b < 256 then some (bs.map (BitVec.ofNat 8)) else none
  | .ev pol x y ts => (assembleEv pol x y ts).map bytesOfWords
  | .nopw => (assembleRsv 0xF 0).map bytesOfWord

/-- A listing: its lines' bytes in order, or an assembly error if any line is one (R82). -/
def assemble : List AsmLine → Option (List Byte)
  | [] => some []
  | l :: ls =>
    match assembleLine l, assemble ls with
    | some a, some b => some (a ++ b)
    | _, _ => none

/-- `PROCESS <chunk>` (R83, D29): DECODE_CHUNK, then INGEST of the list it returned. -/
def process (bytes : List Byte) (s : State) : Host.Outcome State Fault Refusal :=
  match exec (.decodeChunk bytes) s with
  | .next t => exec (.ingest t.out) t
  | .fault f => .fault f
  | .refused r => .refused r

/-- A host command line (R82), with its operands unchecked. -/
inductive HostLine where
  /-- `DECODE_WORD 0xHHHHHHHH` -/
  | decodeWord (w : Nat)
  /-- `DECODE_CHUNK <listing or byte list>` -/
  | decodeChunk (listing : List AsmLine)
  /-- `INGEST <event list>` -/
  | ingest (events : List CDEvent)
  /-- `SNAPSHOT now=<n>` -/
  | snapshot (now : Nat)
  /-- `RESET` -/
  | reset
  /-- `PROCESS <chunk>` (R83) -/
  | process (listing : List AsmLine)
deriving DecidableEq, Repr, Inhabited

/-- What a host command line does (R82, R83); `none` is an assembly error, and nothing is issued. -/
def HostLine.issue (l : HostLine) (s : State) : Option (Host.Outcome State Fault Refusal) :=
  match l with
  | .decodeWord w => if w < 2 ^ 32 then some (exec (.decodeWord (BitVec.ofNat 32 w)) s) else none
  | .decodeChunk listing => (assemble listing).map fun bytes => exec (.decodeChunk bytes) s
  | .ingest events => some (exec (.ingest events) s)
  | .snapshot now => if now < 2 ^ 64 then some (exec (.snapshot (BitVec.ofNat 64 now)) s) else none
  | .reset => some (exec .reset s)
  | .process listing => (assemble listing).map fun bytes => Sys2Proof.Machine.process bytes s

end Sys2Proof.Machine
end

