-- ==== Sys2Proof/Machine/System.lean ====
section
/-! DEFINITION. Any number of decoder and painter instances (spec/60_exceptions.md R181, spec/10_state.md R36,
spec/20_memory.md R63, spec/70_reset_and_hazards.md R192): each owns its state alone, the host addresses a transaction
to one of them, and a decoder's list may be given to zero, one or several painters. The operations are those of the
one-decoder, one-painter machine (log 17). The sticky mark of R178 belongs to the whole collection (DESIGN CHOICE,
safe, log 29). -/

namespace Sys2Proof.Machine

/-- The instances the host has constructed, in order of construction, and the sticky mark. The number by which the
host tells instances apart is the host's: the block has no instance identifier register (R181). -/
structure System where
  decoders : List Decoder
  painters : List Painter
  /-- The sticky fault or refusal mark (R178). The spec does not say whether it belongs to one instance or to all:
  DESIGN CHOICE (safe, log 29), there is one for all, "in the model state". -/
  mark : Option Mark
deriving DecidableEq, Repr, Inhabited

/-- No instance yet, and no mark (R195). -/
def System.empty : System := { decoders := [], painters := [], mark := none }

/-- An outcome of a transaction on a system: the system after it, and what it returned. -/
abbrev SystemOutcome (β : Type) := Host.Outcome (System × β) Fault Refusal

/-- A system whose mark is set takes no further transaction, to any instance: it answers the same stop again (R177,
R178; log 29). -/
def System.unlessMarked {β : Type} (sys : System) (o : SystemOutcome β) : SystemOutcome β :=
  match sys.mark with
  | none => o
  | some m => stoppedOutcome m

/-! ## The transactions -/

/-- Construct a decoder (R192): it uses only CARRY_POLICY and touches no other instance. -/
def System.addDecoder (sys : System) (policy : CarryPolicy) : SystemOutcome Unit :=
  sys.unlessMarked (.next ({ sys with decoders := sys.decoders ++ [constructDecoder policy] }, ()))

/-- Construct a painter (R192), or refuse an illegal configuration (R7): no instance is added. -/
def System.addPainter (sys : System) (cfg : Cfg) (now0 : Ticks) : SystemOutcome Unit :=
  sys.unlessMarked
    (if CfgLegal cfg then .next ({ sys with painters := sys.painters ++ [constructPainter cfg now0] }, ())
    else .refused .refuseConfig)

/-- Replace one decoder by what a transaction leaves of it. -/
def System.onDecoder {β : Type} (sys : System) (k : Nat) (f : Decoder → Decoder × β) : SystemOutcome β :=
  sys.unlessMarked
    (match sys.decoders[k]? with
    | none => .refused .noInstance
    | some d => .next ({ sys with decoders := sys.decoders.set k (f d).1 }, (f d).2))

/-- Replace one painter by what a transaction leaves of it. -/
def System.onPainter {β : Type} (sys : System) (k : Nat) (f : Painter → Painter × β) : SystemOutcome β :=
  sys.unlessMarked
    (match sys.painters[k]? with
    | none => .refused .noInstance
    | some p => .next ({ sys with painters := sys.painters.set k (f p).1 }, (f p).2))

/-- DECODE_WORD to decoder `k` (R105). -/
def System.decodeWord (sys : System) (k : Nat) (w : Word) : SystemOutcome (Option CDEvent) :=
  sys.onDecoder k (·.decodeWord w)

/-- DECODE_CHUNK to decoder `k` (R106, R107). -/
def System.decodeChunk (sys : System) (k : Nat) (bytes : List Byte) : SystemOutcome (List CDEvent) :=
  sys.onDecoder k (·.decodeChunk bytes)

/-- INGEST to painter `k` (R130). -/
def System.ingest (sys : System) (k : Nat) (events : List CDEvent) : SystemOutcome Unit :=
  sys.onPainter k fun p => (p.ingest events, ())

/-- SNAPSHOT to painter `k` (R135). A `now` that runs backwards for that painter is the model fault of R136 and R200;
that its mark stops the other instances too is the model's choice, which the spec leaves open (DESIGN CHOICE, safe,
log 29). -/
def System.snapshot (sys : System) (k : Nat) (now : Ticks) : SystemOutcome SnapResp :=
  sys.unlessMarked
    (if (sys.painters[k]?).any (·.timeBackwards now) then .fault .timeBackwards
    else sys.onPainter k (·.snapshot now))

/-- RESET to painter `k` (R143). -/
def System.reset (sys : System) (k : Nat) : SystemOutcome Unit :=
  sys.onPainter k fun p => (p.reset, ())

/-- A transaction with a reserved command code (R81, R178): REFUSE_CMD. The code names no sub-block, so no instance is
addressed (log 29). -/
def System.reservedCommand (sys : System) : SystemOutcome Unit := sys.unlessMarked (.refused .refuseCmd)

/-- One decoder's list given to several painters, in order (R36, D29). -/
def System.feed (sys : System) (events : List CDEvent) : List Nat → SystemOutcome Unit
  | [] => sys.unlessMarked (.next (sys, ()))
  | k :: ks =>
    match sys.ingest k events with
    | .next (sys', _) => System.feed sys' events ks
    | .fault f => .fault f
    | .refused r => .refused r

/-! ## Runs -/

/-- What the host may issue to a system (R35, R80, R190). -/
inductive SystemCmd where
  /-- construction of a decoder (R192) -/
  | addDecoder (policy : CarryPolicy)
  /-- construction of a painter (R192) -/
  | addPainter (cfg : Cfg) (now0 : Ticks)
  | decodeWord (k : Nat) (w : Word)
  | decodeChunk (k : Nat) (bytes : List Byte)
  | ingest (k : Nat) (events : List CDEvent)
  | snapshot (k : Nat) (now : Ticks)
  | reset (k : Nat)
  /-- the reserved code 0b000 (R81) -/
  | cmdRsv0
  /-- the reserved code 0b110 (R81) -/
  | cmdRsv6
  /-- the reserved code 0b111 (R81) -/
  | cmdRsv7
deriving DecidableEq, Repr, Inhabited

/-- Put a transaction's result in a response record, if it has one (R35). -/
def respondWith {β : Type} (record : β → Option Response) : SystemOutcome β → SystemOutcome (Option Response)
  | .next (sys, r) => .next (sys, record r)
  | .fault f => .fault f
  | .refused r => .refused r

/-- One transaction on a system. -/
def System.exec (sys : System) : SystemCmd → SystemOutcome (Option Response)
  | .addDecoder policy => respondWith (fun _ => none) (sys.addDecoder policy)
  | .addPainter cfg now0 => respondWith (fun _ => none) (sys.addPainter cfg now0)
  | .decodeWord k w => respondWith (fun r => some (.word r)) (sys.decodeWord k w)
  | .decodeChunk k bytes => respondWith (fun r => some (.chunk r)) (sys.decodeChunk k bytes)
  | .ingest k events => respondWith (fun _ => none) (sys.ingest k events)
  | .snapshot k now => respondWith (fun r => some (.snap r)) (sys.snapshot k now)
  | .reset k => respondWith (fun _ => none) (sys.reset k)
  | .cmdRsv0 => respondWith (fun _ => none) sys.reservedCommand
  | .cmdRsv6 => respondWith (fun _ => none) sys.reservedCommand
  | .cmdRsv7 => respondWith (fun _ => none) sys.reservedCommand

/-- The system an outcome leaves (R178): a fault or refusal sets the sticky mark and writes nothing else. -/
def System.settle {β : Type} (before : System) : SystemOutcome β → System
  | .next (after, _) => after
  | .fault f => { before with mark := some (.fault f) }
  | .refused r => { before with mark := some (.refusal r) }

/-- One transaction as a total function on systems. -/
def System.transact (sys : System) (c : SystemCmd) : System := sys.settle (sys.exec c)

/-- A list of transactions in order (R58, R204), with the responses, stopping at the first fault or refusal. -/
def System.execAll (sys : System) : List SystemCmd → SystemOutcome (List Response)
  | [] => sys.unlessMarked (.next (sys, []))
  | c :: cs =>
    match sys.exec c with
    | .next (sys', r) =>
      match System.execAll sys' cs with
      | .next (sys'', rs) => .next (sys'', r.toList ++ rs)
      | .fault f => .fault f
      | .refused e => .refused e
    | .fault f => .fault f
    | .refused e => .refused e

end Sys2Proof.Machine
end

