-- ==== Sys2Proof/WellFormed.lean ====
section
/-! DEFINITION. The well-formedness of an instruction. The operand fields have the widths of their encodings, so
every field value is admitted (R72, R73); what is left to check is the record invariant of spec/10_state.md R32. -/

namespace Sys2Proof

/-- R32: "The timestamp's value is always < 2^34, so bits 63:34 are always 0". -/
abbrev CDEvent.WellFormed (ev : CDEvent) : Prop := ev.timestamp.toNat < 2 ^ 34

/-- An instruction is well-formed when every event it carries is a CDEvent of R32. The machine itself runs an INGEST
of any events, since it never reads a timestamp (R134, R147; log 18). -/
abbrev Instr.WellFormed : Instr → Prop
  | .ingest events => ∀ ev ∈ events, ev.WellFormed
  | .cdOff _ _ _ | .cdOn _ _ _ | .timeHigh _ => True
  | .rsv2 _ | .rsv3 _ | .rsv4 _ | .rsv5 _ | .rsv6 _ | .rsv7 _ => True
  | .rsv9 _ | .rsvA _ | .rsvB _ | .rsvC _ | .rsvD _ | .rsvE _ | .rsvF _ => True
  | .decodeWord _ | .decodeChunk _ | .snapshot _ | .reset => True
  | .cmdRsv0 | .cmdRsv6 | .cmdRsv7 => True

end Sys2Proof
end

