-- ==== Sys2Proof/Safety.lean ====
section
/-! DEFINITION. What the states of a safe run satisfy, in the terms the statements use: legal configuration registers
(spec/10_state.md R31), a canonical raster inside its bounds (R25, R57), a carry buffer of at most 3 bytes that stays
empty under drop (R22), a window within its capacity (R29, R137), and timestamps below 2^34 (R32). -/

namespace Sys2Proof.Machine

/-- The decoder's invariant (R22): a partial word only, and none under drop. -/
structure Decoder.Inv (d : Decoder) : Prop where
  carry_short : d.carry.length ≤ 3
  drop_empty : d.carryPolicy = .drop → d.carry = []

/-- The legal values of a painter's configuration registers (R31). -/
structure Painter.RegistersLegal (p : Painter) : Prop where
  width_pos : 1 ≤ p.width
  height_pos : 1 ≤ p.height
  decay_pos : 1 ≤ p.decayNum.toNat
  decay_le : p.decayNum.toNat ≤ 65536
  capacity_pos : 1 ≤ p.fpsCapacity
  colors_differ : p.offColor ≠ p.onColor
  tick_pos : 1 ≤ p.tickHz
  eps_pos : 0 < epsValue p.eps

/-- Every listed channel of a raster lies inside it (R55, R57). -/
abbrev Memory.Within (m : Memory) (width height : Nat) : Prop := ∀ c ∈ m, c.1 < height * width * 3

/-- The painter's invariant. -/
structure Painter.Inv (p : Painter) : Prop where
  registers : p.RegistersLegal
  canonical : p.raster.wf
  within : p.raster.Within p.width p.height
  window : p.fpsWindow.length ≤ p.fpsCapacity

/-- A response is well-formed: its events are CDEvents of R32, its raster copy is canonical and inside the response's
dimensions (R34). -/
def Response.Ok : Response → Prop
  | .word r => ∀ ev ∈ r.toList, ev.WellFormed
  | .chunk evs => ∀ ev ∈ evs, ev.WellFormed
  | .snap r => r.raster.wf ∧ r.raster.Within r.width r.height

/-- The invariant of the machine. -/
structure State.Inv (s : State) : Prop where
  dec : s.dec.Inv
  acc : s.acc.Inv
  out : ∀ ev ∈ s.out, ev.WellFormed
  responses : ∀ r ∈ s.responses, r.Ok

/-- A safe state: the invariant holds and no fault or refusal mark is set (R178). -/
structure State.Safe (s : State) : Prop where
  inv : s.Inv
  unmarked : s.mark = none

/-- Two painters have the same configuration registers (R31). -/
structure Painter.SameConfig (p q : Painter) : Prop where
  width : p.width = q.width
  height : p.height = q.height
  decayNum : p.decayNum = q.decayNum
  fpsCapacity : p.fpsCapacity = q.fpsCapacity
  onColor : p.onColor = q.onColor
  offColor : p.offColor = q.offColor
  tickHz : p.tickHz = q.tickHz
  eps : p.eps = q.eps
  fpsInst : p.fpsInst = q.fpsInst
  fpsSmooth : p.fpsSmooth = q.fpsSmooth

/-! ## Terms of the statements -/

/-- The instructions of the decoder: the EVT2 words and its two transactions (R35). -/
def forDecoder : Instr → Bool
  | .cdOff _ _ _ | .cdOn _ _ _ | .timeHigh _ => true
  | .rsv2 _ | .rsv3 _ | .rsv4 _ | .rsv5 _ | .rsv6 _ | .rsv7 _ => true
  | .rsv9 _ | .rsvA _ | .rsvB _ | .rsvC _ | .rsvD _ | .rsvE _ | .rsvF _ => true
  | .decodeWord _ | .decodeChunk _ => true
  | .ingest _ | .snapshot _ | .reset => false
  | .cmdRsv0 | .cmdRsv6 | .cmdRsv7 => false

/-- The transactions of the painter (R35). -/
def forPainter : Instr → Bool
  | .ingest _ | .snapshot _ | .reset => true
  | .cdOff _ _ _ | .cdOn _ _ _ | .timeHigh _ => false
  | .rsv2 _ | .rsv3 _ | .rsv4 _ | .rsv5 _ | .rsv6 _ | .rsv7 _ => false
  | .rsv9 _ | .rsvA _ | .rsvB _ | .rsvC _ | .rsvD _ | .rsvE _ | .rsvF _ => false
  | .decodeWord _ | .decodeChunk _ => false
  | .cmdRsv0 | .cmdRsv6 | .cmdRsv7 => false

/-- Channel 0, 1 or 2 of a colour (R25). -/
def colorChannel (color : Color) : Nat → Byte
  | 0 => color.c0
  | 1 => color.c1
  | _ => color.c2

/-- What a CD word says of its event, read from the word alone: polarity, column, row (R72, R76). Any other word says
nothing. -/
def cdKey (w : Word) : Option (Polarity × BitVec 11 × BitVec 11) :=
  if wordTag w = 0x0#4 then some (.off, wordX w, wordY w)
  else if wordTag w = 0x1#4 then some (.on, wordX w, wordY w)
  else none

/-- What an event says, its timestamp aside. -/
def eventKey (ev : CDEvent) : Polarity × BitVec 11 × BitVec 11 := (ev.polarity, ev.x, ev.y)

/-- The last event of a list that lies on pixel `(x, y)`. -/
def lastOn (events : List CDEvent) (x y : Nat) : Option CDEvent :=
  events.reverse.find? fun ev => ev.x.toNat == x && ev.y.toNat == y

/-- The events of a list that lie inside a painter's raster (R132). -/
def inBoundsCount (p : Painter) (events : List CDEvent) : Nat :=
  events.countP fun ev => p.inBounds ev.x ev.y

/-- The `now` of a SNAPSHOT. -/
def snapshotTime : Instr → Option Ticks
  | .snapshot now => some now
  | _ => none

/-- The elapsed times of successive snapshots, from a start time on (R136). -/
def elapsedTimes (start : Ticks) : List Ticks → List Ticks
  | [] => []
  | now :: later => (now - start) :: elapsedTimes now later

/-- The bytes that DECODE_CHUNK cuts into words (R106, R107). -/
def chunkBuffer (d : Decoder) (bytes : List Byte) : List Byte :=
  match d.carryPolicy with
  | .carry => d.carry ++ bytes
  | .drop => bytes

end Sys2Proof.Machine
end

