-- ==== Sys2Proof/Certificates/Slice0/Obligations.lean ====
section
/-! DEFINITION. The statements about the model, each from the numbered rules of spec/ that its docstring names. A
state is any state that meets the hypotheses, reached or not; where a statement needs the raster in canonical form
or the registers legal it says so, and that these are invariants is `StepKeepsInvariant`. As R178 asks of every claim,
a statement about what a state does next has as a premise that the state's fault or refusal mark is not set; a
constructed state has none set. -/

open Sys2Proof Sys2Proof.Machine

/-! ## Encoding -/

/-- Decoding the encoding of an instruction gives it back, with every operand at every value (R70 to R74, R78, R80).
The operand layout of a command frame is the model's choice (log 6). -/
def Obligations.DecodeOfEncodeIsIdentity : Prop :=
  ∀ i : Instr, decode (encode i) = .ok i

/-- R78: the inverse layout as numbers, its round trip for every argument, and the rule's seven worked examples,
words and bytes in stream order. -/
def Obligations.EventWordsRoundTrip : Prop :=
  (∀ (pol : Polarity) (t : BitVec 6) (x y : BitVec 11),
    (encodeCd pol t x y).toNat = pol.bit.toNat * 2 ^ 28 + t.toNat * 2 ^ 22 + x.toNat * 2 ^ 11 + y.toNat ∧
    decodeEvt2 (encodeCd pol t x y) = (match pol with | .off => .cdOff t x y | .on => .cdOn t x y)) ∧
  (∀ h : BitVec 28, (encodeTh h).toNat = 0x80000000 + h.toNat ∧ decodeEvt2 (encodeTh h) = .timeHigh h) ∧
  (bytesOfWord 0x114320C8 = [0xC8, 0x20, 0x43, 0x11] ∧ decodeEvt2 0x114320C8 = .cdOn 5 100 200) ∧
  (bytesOfWord 0x80ABCDEF = [0xEF, 0xCD, 0xAB, 0x80] ∧ decodeEvt2 0x80ABCDEF = .timeHigh 0x0ABCDEF) ∧
  (bytesOfWord 0x00000000 = [0x00, 0x00, 0x00, 0x00] ∧ decodeEvt2 0x00000000 = .cdOff 0 0 0) ∧
  (bytesOfWord 0x1FFFFFFF = [0xFF, 0xFF, 0xFF, 0x1F] ∧ decodeEvt2 0x1FFFFFFF = .cdOn 63 2047 2047) ∧
  (bytesOfWord 0x8FFFFFFF = [0xFF, 0xFF, 0xFF, 0x8F] ∧ decodeEvt2 0x8FFFFFFF = .timeHigh 0x0FFFFFFF) ∧
  (bytesOfWord 0x9ABCDEF0 = [0xF0, 0xDE, 0xBC, 0x9A] ∧ decodeEvt2 0x9ABCDEF0 = .rsv9 0xABCDEF0) ∧
  (bytesOfWord 0xFFFFFFFF = [0xFF, 0xFF, 0xFF, 0xFF] ∧ decodeEvt2 0xFFFFFFFF = .rsvF 0xFFFFFFF)

/-- Every 32-bit word is the encoding of what it decodes to (R77): no bit of a word is dropped, and two words never
share a meaning with equal operands. That a reserved word keeps its payload is the model's choice (log 15). -/
def Obligations.EncodeOfDecodedWordIsTheWord : Prop :=
  ∀ w : Word, encode (decodeEvt2 w) = wordFrame w

/-- R79: the sixteen rows with their match values, one mask, each word matches exactly one row, and it is the row of
the instruction it decodes to. -/
def Obligations.OpcodeRowsPartitionTheWords : Prop :=
  (opcodeRows.map fun r => (r.value.toNat, r.mnemonic)) =
    [(0x00000000, "CD_OFF"), (0x10000000, "CD_ON"), (0x20000000, "RSV_2"), (0x30000000, "RSV_3"),
     (0x40000000, "RSV_4"), (0x50000000, "RSV_5"), (0x60000000, "RSV_6"), (0x70000000, "RSV_7"),
     (0x80000000, "TIME_HIGH"), (0x90000000, "RSV_9"), (0xA0000000, "RSV_A"), (0xB0000000, "RSV_B"),
     (0xC0000000, "RSV_C"), (0xD0000000, "RSV_D"), (0xE0000000, "RSV_E"), (0xF0000000, "RSV_F")] ∧
  (∀ r ∈ opcodeRows, r.mask = 0xF0000000) ∧
  ∀ w : Word, ∃ r ∈ opcodeRows, r.Matches w ∧ (decodeEvt2 w).mnemonic = r.mnemonic ∧
    ∀ r' ∈ opcodeRows, r'.Matches w → r' = r

/-- R51: a word is little-endian, its fourth byte holds bits 31:24 and that byte's high nibble is the tag. -/
def Obligations.WordsAreLittleEndian : Prop :=
  ∀ b0 b1 b2 b3 : Byte,
    (le32 b0 b1 b2 b3).toNat = b0.toNat + b1.toNat * 2 ^ 8 + b2.toNat * 2 ^ 16 + b3.toNat * 2 ^ 24 ∧
    (le32 b0 b1 b2 b3).extractLsb' 24 8 = b3 ∧
    wordTag (le32 b0 b1 b2 b3) = b3.extractLsb' 4 4

/-- Words written out from the encodings of R72 to R74 and R78 decode, from their bytes in stream order, to the
instructions they stand for. -/
def Obligations.SampleWordsDecode : Prop :=
  decode ⟨.stream, [0xC8, 0x20, 0x43, 0x0A]⟩ = .ok (.cdOff 41 100 200) ∧
  decode ⟨.stream, [0x01, 0x08, 0x40, 0x10]⟩ = .ok (.cdOn 1 1 1) ∧
  decode ⟨.stream, [0x78, 0x56, 0x34, 0x12]⟩ = .ok (.cdOn 8 1674 1656) ∧
  decode ⟨.stream, [0xEF, 0xCD, 0xAB, 0x80]⟩ = .ok (.timeHigh 0x0ABCDEF) ∧
  decode ⟨.stream, [0xEF, 0xBE, 0xAD, 0xDE]⟩ = .ok (.rsvD 0xEADBEEF) ∧
  decode ⟨.stream, [0x11, 0x43, 0x20, 0xC8]⟩ = .ok (.rsvC 0x8204311)

/-- The 3-bit code of R80 selects the transaction, whatever the operand bytes. How a command travels in a frame is the
model's choice (logs 6 and 7). -/
def Obligations.CommandCodeSelectsTransaction : Prop :=
  ∀ (code : Byte) (operand : List Byte) (i : Instr), decode ⟨.command, code :: operand⟩ = .ok i →
    i.mnemonic = (match code.toNat % 8 with
      | 0 => "CMD_RSV_0"
      | 1 => "DECODE_WORD"
      | 2 => "DECODE_CHUNK"
      | 3 => "INGEST"
      | 4 => "SNAPSHOT"
      | 5 => "RESET"
      | 6 => "CMD_RSV_6"
      | _ => "CMD_RSV_7")

/-! ## Steps and outcomes -/

/-- A step runs the instruction that the next frame decodes to, on the state with that frame taken and nothing else
changed (R35, R58; that the host's transactions wait in a list is the model's choice, log 12). -/
def Obligations.StepRunsTheDecodedInstruction : Prop :=
  ∀ (s : State) (f : Frame) (rest : List Frame) (i : Instr),
    s.mark = none → s.input = f :: rest → decode f = .ok i → step s = exec i { s with input := rest }

/-- An instruction of the opcode table put where the step takes its next one is the one the step runs (log 12). -/
def Obligations.PlacedTableWordIsRun : Prop :=
  ∀ (s : State) (nbits w : Nat) (i : Instr),
    s.mark = none → decodeTableWord nbits w = some i → step (s.withFetchWord nbits w) = exec i s

/-- With nothing issued a step changes nothing, and idling for any number of steps changes nothing (R183). -/
def Obligations.IdleStepsChangeNothing : Prop :=
  ∀ s : State, s.mark = none → s.input = [] → step s = .next s ∧ ∀ n, advance^[n] s = s

/-- A frame that holds no instruction is refused by name; that there are such frames is the model's choice
(log 16). -/
def Obligations.MalformedFrameIsRefused : Prop :=
  ∀ (s : State) (f : Frame) (rest : List Frame) (e : DecodeError),
    s.mark = none → s.input = f :: rest → decode f = .error e → step s = .refused (.malformedFrame e)

/-- R178: a fault or refusal sets a sticky mark and writes no other state, and no later step or transaction clears the
mark or does anything else. -/
def Obligations.MarkIsStickyAndAlone : Prop :=
  (∀ (s : State) (i : Instr) (f : Fault), s.mark = none → exec i s = .fault f →
    transact i s = { s with mark := some (.fault f) }) ∧
  (∀ (s : State) (i : Instr) (r : Refusal), s.mark = none → exec i s = .refused r →
    transact i s = { s with mark := some (.refusal r) }) ∧
  (∀ (s : State) (m : Mark), s.mark = some m →
    (∀ t, step s ≠ .next t) ∧ advance s = s ∧ ∀ i, transact i s = s) ∧
  (∀ (s t : State) (i : Instr), exec i s = .next t → t.mark = s.mark)

/-- R81: a reserved command code is refused and changes no state but the sticky mark. -/
def Obligations.ReservedCommandsAreRefused : Prop :=
  ∀ (s : State) (i : Instr), i = .cmdRsv0 ∨ i = .cmdRsv6 ∨ i = .cmdRsv7 →
    s.mark = none →
    exec i s = .refused .refuseCmd ∧ transact i s = { s with mark := some (.refusal .refuseCmd) }

/-! ## Construction -/

/-- R37: what construction with a legal configuration leaves. -/
def Obligations.ConstructionGivesResetValues : Prop :=
  ∀ (cfg : Cfg) (now0 : Ticks), CfgLegal cfg → ∃ s, construct cfg now0 = .next s ∧
    s.dec.timeHigh = 0 ∧ s.dec.carry = [] ∧ s.dec.carryPolicy = cfg.carryPolicy ∧
    (∀ x y c, x < s.acc.width → y < s.acc.height → c < 3 →
      s.acc.raster.read (channelIndex s.acc.width x y c) = 0) ∧
    s.acc.eventCount = 0 ∧ s.acc.frameCount = 0 ∧ s.acc.fpsWindow = [] ∧ s.acc.lastSnapshotTime = now0 ∧
    s.acc.width = cfg.width ∧ s.acc.height = cfg.height ∧ s.acc.decayNum.toNat = cfg.decayNum ∧
    s.acc.fpsCapacity = cfg.fpsWindow ∧
    s.acc.onColor.c0.toNat = cfg.onColor.c0 ∧ s.acc.onColor.c1.toNat = cfg.onColor.c1 ∧
    s.acc.onColor.c2.toNat = cfg.onColor.c2 ∧ s.acc.offColor.c0.toNat = cfg.offColor.c0 ∧
    s.acc.offColor.c1.toNat = cfg.offColor.c1 ∧ s.acc.offColor.c2.toNat = cfg.offColor.c2 ∧
    s.acc.tickHz = cfg.tickHz ∧ s.acc.eps = cfg.eps ∧ s.acc.fpsInst = cfg.fpsInst ∧
    s.acc.fpsSmooth = cfg.fpsSmooth ∧ s.mark = none

/-- R7: a configuration outside the legal values of R5's table is refused at construction, and the block never
starts: a run of it is that refusal whatever the transactions. -/
def Obligations.IllegalConfigurationIsRefused : Prop :=
  ∀ (cfg : Cfg) (now0 : Ticks),
    (cfg.width < 1 ∨ cfg.height < 1 ∨ cfg.decayNum < 1 ∨ 65536 < cfg.decayNum ∨ cfg.decayFrac ≠ 16 ∨
      cfg.fpsWindow < 1 ∨ epsValue cfg.eps ≤ 0 ∨ cfg.tickHz < 1 ∨
      2 ^ cfg.chanBits - 1 < cfg.onColor.c0 ∨ 2 ^ cfg.chanBits - 1 < cfg.onColor.c1 ∨
      2 ^ cfg.chanBits - 1 < cfg.onColor.c2 ∨ 2 ^ cfg.chanBits - 1 < cfg.offColor.c0 ∨
      2 ^ cfg.chanBits - 1 < cfg.offColor.c1 ∨ 2 ^ cfg.chanBits - 1 < cfg.offColor.c2 ∨
      cfg.offColor = cfg.onColor ∨ cfg.chanBits ≠ 8 ∨ cfg.cntBits ≠ 64 ∨ cfg.timeBits ≠ 64 ∨ cfg.tsBits ≠ 64) →
    construct cfg now0 = .refused .refuseConfig ∧
    ∀ is, run cfg now0 is = .marked (.refusal .refuseConfig)

/-- The reset state is construction with the model's example configuration and `now0 = 0` (the values are the model's
choice, logs 1 and 2). -/
def Obligations.ResetStateIsAConstruction : Prop :=
  construct Cfg.atReset 0 = .next State.reset

/-- R31: the configuration registers are loaded at construction, and no word or transaction writes them. -/
def Obligations.ConfigurationRegistersAreReadOnly : Prop :=
  ∀ (i : Instr) (s t : State), s.mark = none → exec i s = .next t →
    t.acc.SameConfig s.acc ∧ t.dec.carryPolicy = s.dec.carryPolicy

/-! ## EVT2 words -/

/-- CD_OFF and CD_ON (R101, R102): one event with the word's fields and the timestamp time_high × 64 + t_low joins the
output sequence, and everything else is unchanged. -/
def Obligations.CdWordsEmitTheirEvent : Prop :=
  ∀ (t : BitVec 6) (x y : BitVec 11) (s : State), s.mark = none →
    exec (.cdOff t x y) s = .next { s with
      out := s.out ++ [⟨x, y, .off, BitVec.ofNat 64 (s.dec.timeHigh.toNat * 64 + t.toNat)⟩] } ∧
    exec (.cdOn t x y) s = .next { s with
      out := s.out ++ [⟨x, y, .on, BitVec.ofNat 64 (s.dec.timeHigh.toNat * 64 + t.toNat)⟩] }

/-- TIME_HIGH (R103): the payload replaces time_high, and everything else is unchanged. -/
def Obligations.TimeHighWordLoadsTheRegister : Prop :=
  ∀ (h : BitVec 28) (s : State), s.mark = none →
    exec (.timeHigh h) s = .next { s with dec := { s.dec with timeHigh := h } }

/-- The thirteen reserved tags (R104): the whole state is unchanged. -/
def Obligations.ReservedWordsDoNothing : Prop :=
  ∀ (p : BitVec 28) (s : State), s.mark = none →
    exec (.rsv2 p) s = .next s ∧ exec (.rsv3 p) s = .next s ∧ exec (.rsv4 p) s = .next s ∧
    exec (.rsv5 p) s = .next s ∧ exec (.rsv6 p) s = .next s ∧ exec (.rsv7 p) s = .next s ∧
    exec (.rsv9 p) s = .next s ∧ exec (.rsvA p) s = .next s ∧ exec (.rsvB p) s = .next s ∧
    exec (.rsvC p) s = .next s ∧ exec (.rsvD p) s = .next s ∧ exec (.rsvE p) s = .next s ∧
    exec (.rsvF p) s = .next s

/-- R109: a timestamp is time_high × 64 + t_low exactly, below 2^34; the decoder extends nothing when time_high falls,
so a lower time_high gives a smaller timestamp, and t_low orders the events of one time_high. -/
def Obligations.TimestampIsHighTimes64PlusLow : Prop :=
  (∀ (th : BitVec 28) (t : BitVec 6),
    (timestamp th t).toNat = th.toNat * 64 + t.toNat ∧ (timestamp th t).toNat < 2 ^ 34) ∧
  (∀ (th th' : BitVec 28) (t t' : BitVec 6),
    th'.toNat < th.toNat → (timestamp th' t').toNat < (timestamp th t).toNat) ∧
  (∀ (th : BitVec 28) (t t' : BitVec 6),
    t'.toNat < t.toNat → (timestamp th t').toNat < (timestamp th t).toNat)

/-! ## The decoder's transactions -/

/-- DECODE_WORD (R105) is the word's own meaning on a fresh output sequence, then the response with the event, if any;
dec.carry is neither read nor written. -/
def Obligations.DecodeWordIsTheWordAndAResponse : Prop :=
  ∀ (w : Word) (s : State), s.mark = none → ∃ t,
    exec (decodeEvt2 w) { s with out := [] } = .next t ∧ t.dec.carry = s.dec.carry ∧ t.out.length ≤ 1 ∧
    exec (.decodeWord w) s = .next { t with responses := s.responses ++ [.word t.out.head?] }

/-- DECODE_CHUNK under carry (R106): the buffer is the carry then the chunk; the words it completes are stepped in
stream order from time_high, and the 0 to 3 bytes left over are the new carry; nothing else changes but the output
sequence and the response. -/
def Obligations.DecodeChunkUnderCarry : Prop :=
  ∀ (bytes : List Byte) (s : State), s.mark = none → s.dec.carryPolicy = .carry →
    ∃ (ws : List Word) (tail : List Byte),
    s.dec.carry ++ bytes = ws.flatMap bytesOfWord ++ tail ∧ tail.length < 4 ∧
    exec (.decodeChunk bytes) s = .next { s with
      dec := { s.dec with timeHigh := (stepWords s.dec.timeHigh ws).1, carry := tail }
      out := (stepWords s.dec.timeHigh ws).2
      responses := s.responses ++ [.chunk (stepWords s.dec.timeHigh ws).2] }

/-- DECODE_CHUNK under drop (R107): the chunk's own words are stepped from time_high, its tail of fewer than 4 bytes is
discarded, and dec.carry is not written. -/
def Obligations.DecodeChunkUnderDrop : Prop :=
  ∀ (bytes : List Byte) (s : State), s.mark = none → s.dec.carryPolicy = .drop →
    ∃ (ws : List Word) (tail : List Byte),
    bytes = ws.flatMap bytesOfWord ++ tail ∧ tail.length < 4 ∧
    exec (.decodeChunk bytes) s = .next { s with
      dec := { s.dec with timeHigh := (stepWords s.dec.timeHigh ws).1 }
      out := (stepWords s.dec.timeHigh ws).2
      responses := s.responses ++ [.chunk (stepWords s.dec.timeHigh ws).2] }

/-- R108: the list DECODE_CHUNK returns has exactly one event for each CD word completed, in stream order, with the
word's polarity and coordinates, and nothing else. -/
def Obligations.ChunkReturnsItsCdEventsInOrder : Prop :=
  ∀ (bytes : List Byte) (s : State), s.mark = none → ∃ (t : State) (ws : List Word) (tail : List Byte),
    exec (.decodeChunk bytes) s = .next t ∧
    chunkBuffer s.dec bytes = ws.flatMap bytesOfWord ++ tail ∧ tail.length < 4 ∧
    t.responses = s.responses ++ [.chunk t.out] ∧
    t.out.map eventKey = ws.filterMap cdKey

/-- R62: decoding [TIME_HIGH(H1), CD(L), TIME_HIGH(H2), CD(L)] gives the timestamps H1 × 64 + L and H2 × 64 + L. -/
def Obligations.CdTimestampsFollowTheLatestTimeHigh : Prop :=
  ∀ (h1 h2 : BitVec 28) (pol : Polarity) (l : BitVec 6) (x y : BitVec 11) (s : State), s.mark = none →
    s.dec.carry = [] →
    ∃ t, exec (.decodeChunk ([encodeTh h1, encodeCd pol l x y, encodeTh h2, encodeCd pol l x y].flatMap bytesOfWord)) s
        = .next t ∧
      t.out = [⟨x, y, pol, BitVec.ofNat 64 (h1.toNat * 64 + l.toNat)⟩,
               ⟨x, y, pol, BitVec.ofNat 64 (h2.toNat * 64 + l.toNat)⟩] ∧
      t.dec = { s.dec with timeHigh := h2 }

/-- R110: a CD word decoded before any TIME_HIGH word since construction has its t_low as timestamp. -/
def Obligations.CdBeforeAnyTimeHighUsesZero : Prop :=
  ∀ (cfg : Cfg) (now0 : Ticks) (ws : List Word), (∀ w ∈ ws, wordTag w ≠ 0x8#4) →
    ∃ t, exec (.decodeChunk (ws.flatMap bytesOfWord)) (constructed cfg now0) = .next t ∧
      t.dec.timeHigh = 0 ∧
      t.out.map (fun ev => ev.timestamp.toNat) =
        (ws.filter fun w => wordTag w = 0x0#4 ∨ wordTag w = 0x1#4).map fun w => (wordTLow w).toNat

/-- R111: time_high persists across transactions of both sub-blocks, and supplies the high bits of a later CD word,
until the next TIME_HIGH word. The chunks between are whole words, so that which words complete does not depend on a
carry. -/
def Obligations.TimeHighPersistsAcrossTransactions : Prop :=
  ∀ (h : BitVec 28) (between : List Instr) (pol : Polarity) (l : BitVec 6) (x y : BitVec 11) (s t : State),
    s.mark = none → s.dec.carry = [] →
    (∀ i ∈ between, forPainter i = true ∨ (∃ w, i = .decodeWord w ∧ wordTag w ≠ 0x8#4) ∨
      ∃ ws : List Word, i = .decodeChunk (ws.flatMap bytesOfWord) ∧ ∀ w ∈ ws, wordTag w ≠ 0x8#4) →
    execAll (.decodeWord (encodeTh h) :: between) s = .next t →
    t.dec.timeHigh = h ∧
    exec (.decodeWord (encodeCd pol l x y)) t = .next { t with
      out := [⟨x, y, pol, BitVec.ofNat 64 (h.toNat * 64 + l.toNat)⟩]
      responses := t.responses ++ [.word (some ⟨x, y, pol, BitVec.ofNat 64 (h.toNat * 64 + l.toNat)⟩)] }

/-- R112: up to three bytes appended to a stream of whole words, in its chunk or as a chunk of their own, change
neither the events nor time_high, under either policy; under carry they stay in dec.carry, under drop they are
discarded. -/
def Obligations.TrailingBytesDecodeNothing : Prop :=
  ∀ (ws : List Word) (extra : List Byte) (s : State), s.mark = none → s.dec.carry = [] → extra.length ≤ 3 →
    ∃ t u v, exec (.decodeChunk (ws.flatMap bytesOfWord)) s = .next t ∧
      exec (.decodeChunk (ws.flatMap bytesOfWord ++ extra)) s = .next u ∧
      exec (.decodeChunk extra) t = .next v ∧
      u.out = t.out ∧ v.out = [] ∧ u.dec.timeHigh = t.dec.timeHigh ∧ v.dec.timeHigh = t.dec.timeHigh ∧
      (s.dec.carryPolicy = .carry → u.dec.carry = extra ∧ v.dec.carry = extra) ∧
      (s.dec.carryPolicy = .drop → u.dec.carry = [] ∧ v.dec.carry = [])

/-- R113: under carry the responses' events, the final time_high and the final carry do not depend on how a stream is
cut into chunks; under drop they do not when every chunk but the last has whole words, and there are cuts for which
they do. The decoder's invariant (R22: a carry of at most 3 bytes) is the premise; every step keeps it
(`StepKeepsInvariant`). -/
def Obligations.ChunkingDoesNotMatter : Prop :=
  (∀ (s : State) (cs1 cs2 : List (List Byte)), s.mark = none → s.dec.Inv → cs1.flatten = cs2.flatten →
    (s.dec.carryPolicy = .carry ∨
      s.dec.carryPolicy = .drop ∧ (∀ c ∈ cs1.dropLast, c.length % 4 = 0) ∧ ∀ c ∈ cs2.dropLast, c.length % 4 = 0) →
    ∃ t1 t2 r1 r2, execAll (cs1.map .decodeChunk) s = .next t1 ∧ execAll (cs2.map .decodeChunk) s = .next t2 ∧
      t1.dec = t2.dec ∧ t1.responses = s.responses ++ r1 ∧ t2.responses = s.responses ++ r2 ∧
      r1.flatMap Response.events = r2.flatMap Response.events) ∧
  (∃ (s : State) (cs1 cs2 : List (List Byte)) (t1 t2 : State), s.mark = none ∧ s.dec.carryPolicy = .drop ∧
    cs1.flatten = cs2.flatten ∧
    execAll (cs1.map .decodeChunk) s = .next t1 ∧ execAll (cs2.map .decodeChunk) s = .next t2 ∧
    t1.responses.flatMap Response.events ≠ t2.responses.flatMap Response.events)

/-- R114: the decoder never fails, whatever the word, the bytes or the state. -/
def Obligations.DecoderNeverFails : Prop :=
  (∀ (w : Word) (s : State), s.mark = none → ∃ t, exec (decodeEvt2 w) s = .next t) ∧
  (∀ (w : Word) (s : State), s.mark = none → ∃ t, exec (.decodeWord w) s = .next t) ∧
  (∀ (bytes : List Byte) (s : State), s.mark = none → ∃ t, exec (.decodeChunk bytes) s = .next t)

/-! ## The two sub-blocks -/

/-- R36: the decoder and the painter share no state. An instruction of one leaves the other as it is, and what it does
to its own sub-block depends on that sub-block alone. -/
def Obligations.SubBlocksShareNoState : Prop :=
  (∀ (i : Instr) (s t : State), s.mark = none → t.mark = none → forDecoder i = true → s.dec = t.dec →
    ∃ s' t', exec i s = .next s' ∧ exec i t = .next t' ∧ s'.acc = s.acc ∧ s'.input = s.input ∧ s'.mark = s.mark ∧
      s'.dec = t'.dec) ∧
  (∀ (i : Instr) (s t s' : State), s.mark = none → t.mark = none → forPainter i = true → s.acc = t.acc →
    exec i s = .next s' →
    ∃ t', exec i t = .next t' ∧ s'.dec = s.dec ∧ s'.out = s.out ∧ s'.input = s.input ∧ s'.mark = s.mark ∧
      s'.acc = t'.acc)

/-! ## INGEST -/

/-- INGEST (R130, R131, R133): each in-bounds pixel shows the colour of the last event on it, or what it showed; the
in-bounds events are counted modulo 2^64; no other channel of memory and no other state changes. -/
def Obligations.IngestPaintsInListOrder : Prop :=
  ∀ (evs : List CDEvent) (s : State), s.mark = none → s.acc.raster.wf → ∃ m : Memory,
    exec (.ingest evs) s = .next { s with acc := { s.acc with
      raster := m
      eventCount := s.acc.eventCount + BitVec.ofNat 64 (inBoundsCount s.acc evs) } } ∧
    (∀ x y c, x < s.acc.width → y < s.acc.height → c < 3 →
      m.read (channelIndex s.acc.width x y c) =
        match lastOn evs x y with
        | some ev => colorChannel (s.acc.colorOf ev.polarity) c
        | none => s.acc.raster.read (channelIndex s.acc.width x y c)) ∧
    (∀ a, (∀ ev ∈ evs, s.acc.inBounds ev.x ev.y = true → ∀ c < 3,
        a ≠ channelIndex s.acc.width ev.x.toNat ev.y.toNat c) →
      m.read a = s.acc.raster.read a)

/-- R133: painting writes exactly the three channels of one pixel, with the polarity's colour, and no neighbour. -/
def Obligations.PaintWritesExactlyOnePixel : Prop :=
  ∀ (ev : CDEvent) (s : State), s.mark = none → s.acc.raster.wf → ev.x.toNat < s.acc.width →
    ev.y.toNat < s.acc.height →
    ∃ t, exec (.ingest [ev]) s = .next t ∧ t.acc.eventCount = s.acc.eventCount + 1 ∧
      (∀ c < 3, t.acc.raster.read (channelIndex s.acc.width ev.x.toNat ev.y.toNat c) =
        colorChannel (match ev.polarity with | .on => s.acc.onColor | .off => s.acc.offColor) c) ∧
      ∀ a, (∀ c < 3, a ≠ channelIndex s.acc.width ev.x.toNat ev.y.toNat c) →
        t.acc.raster.read a = s.acc.raster.read a

/-- R57, R132: an event whose x is not below WIDTH or whose y is not below HEIGHT changes nothing. -/
def Obligations.OutOfBoundsEventChangesNothing : Prop :=
  ∀ (ev : CDEvent) (s : State), s.mark = none → s.acc.width ≤ ev.x.toNat ∨ s.acc.height ≤ ev.y.toNat →
    exec (.ingest [ev]) s = .next s

/-- R134: the painter reads only x, y and polarity; event lists that differ only in timestamps have the same
effect. -/
def Obligations.TimestampsDoNotPaint : Prop :=
  ∀ (evs evs' : List CDEvent) (s : State), s.mark = none → evs.map eventKey = evs'.map eventKey →
    exec (.ingest evs) s = exec (.ingest evs') s

/-! ## SNAPSHOT -/

/-- SNAPSHOT (R135 to R141): the new window, time, raster and counters, the response, and nothing else. -/
def Obligations.SnapshotSamplesCopiesDecaysAndCounts : Prop :=
  ∀ (now : Ticks) (s : State), s.mark = none → s.acc.lastSnapshotTime.toNat ≤ now.toNat → s.acc.raster.wf →
    s.acc.decayNum.toNat ≤ 65536 → ∃ (m : Memory) (window : List Ticks),
    window = (if s.acc.fpsWindow.length = s.acc.fpsCapacity then s.acc.fpsWindow.drop 1 else s.acc.fpsWindow) ++
      [BitVec.ofNat 64 (now.toNat - s.acc.lastSnapshotTime.toNat)] ∧
    (∀ a, (m.read a).toNat = (s.acc.raster.read a).toNat * s.acc.decayNum.toNat / 2 ^ 16) ∧
    exec (.snapshot now) s = .next { s with
      acc := { s.acc with
        fpsWindow := window
        lastSnapshotTime := now
        raster := m
        frameCount := s.acc.frameCount + 1
        eventCount := 0 }
      responses := s.responses ++ [.snap {
        raster := s.acc.raster
        width := s.acc.width
        height := s.acc.height
        frameCount := s.acc.frameCount + 1
        eventCount := s.acc.eventCount
        fps := Config.fpsSmooth s.acc.fpsSmooth
          (window.map (Config.fpsInst s.acc.fpsInst s.acc.tickHz (epsValue s.acc.eps))) }] }

/-- R200: a `now` below the last snapshot time is the model fault FAULT_TIME_BACKWARDS, which writes only the sticky
mark; any other `now` is taken. -/
def Obligations.BackwardsTimeFaults : Prop :=
  ∀ (now : Ticks) (s : State), s.mark = none →
    (now.toNat < s.acc.lastSnapshotTime.toNat → exec (.snapshot now) s = .fault .timeBackwards ∧
      transact (.snapshot now) s = { s with mark := some (.fault .timeBackwards) }) ∧
    (s.acc.lastSnapshotTime.toNat ≤ now.toNat → ∃ t, exec (.snapshot now) s = .next t ∧ t.acc.lastSnapshotTime = now)

/-- R60: a returned copy is the raster as it stood before the decay, and no later transaction changes it. -/
def Obligations.ReturnedCopyNeverChanges : Prop :=
  ∀ (now : Ticks) (later : List Instr) (s t u : State), s.mark = none →
    exec (.snapshot now) s = .next t → execAll later t = .next u →
    ∃ r : SnapResp, r.raster = s.acc.raster ∧ u.responses[s.responses.length]? = some (.snap r)

/-- R137: after any transactions since construction the window holds the elapsed times of the last
min(FPS_WINDOW, number of SNAPSHOTs) snapshots, oldest first. -/
def Obligations.WindowHoldsTheLastElapsedTimes : Prop :=
  ∀ (cfg : Cfg) (now0 : Ticks) (is : List Instr) (t : State), CfgLegal cfg →
    execAll is (constructed cfg now0) = .next t →
    let elapsed := elapsedTimes now0 (is.filterMap snapshotTime)
    t.acc.fpsWindow = elapsed.drop (elapsed.length - cfg.fpsWindow) ∧
    t.acc.fpsWindow.length = min cfg.fpsWindow elapsed.length

/-- R142: the spec's default rate functions, before rounding: at no elapsed time the ε guard gives 1/EPS, and a window
of equal elapsed times reports their one rate. -/
def Obligations.DefaultFrameRateIsGuarded : Prop :=
  (∀ (tickHz : Nat) (eps : ℝ), 1 ≤ tickHz → 0 < eps →
    defaultFpsInst tickHz eps 0 = 1 / eps ∧
    ∀ e : Ticks, 0 < defaultFpsInst tickHz eps e ∧ defaultFpsInst tickHz eps e ≤ 1 / eps) ∧
  (∀ (inst : Ticks → ℝ) (e : Ticks) (n : Nat),
    smoothedRate inst defaultFpsSmooth (List.replicate (n + 1) e) = inst e)

/-- R144: the decay laws of a channel, and that with a rate below 1 every channel is 0 after 255 snapshots without an
INGEST. -/
def Obligations.DecayDrivesEveryChannelToZero : Prop :=
  (∀ (d : BitVec 17) (c : Byte), d.toNat ≤ 65536 → (decayByte d c).toNat ≤ c.toNat) ∧
  (∀ d : BitVec 17, decayByte d 0 = 0) ∧
  (∀ (d : BitVec 17) (c1 c2 : Byte), d.toNat ≤ 65536 → c1.toNat ≤ c2.toNat →
    (decayByte d c1).toNat ≤ (decayByte d c2).toNat) ∧
  (∀ (d : BitVec 17) (c : Byte), d.toNat < 65536 → 1 ≤ c.toNat → (decayByte d c).toNat < c.toNat) ∧
  (∀ (nows : List Ticks) (s t : State), s.mark = none → s.acc.raster.wf → s.acc.decayNum.toNat < 65536 →
    255 ≤ nows.length →
    execAll (nows.map .snapshot) s = .next t → ∀ a, t.acc.raster.read a = 0)

/-- R145: at DECAY_NUM = 65536 a SNAPSHOT leaves the raster unchanged. -/
def Obligations.FullRateKeepsTheRaster : Prop :=
  ∀ (now : Ticks) (s t : State), s.mark = none → s.acc.raster.wf → s.acc.decayNum.toNat = 65536 →
    exec (.snapshot now) s = .next t → t.acc.raster = s.acc.raster

/-- R146: at the dyadic rate 2^-k, n snapshots without an INGEST take a channel c to floor(c / 2^(k n)). -/
def Obligations.DyadicDecayHasClosedForm : Prop :=
  ∀ (k : Nat) (nows : List Ticks) (s t : State), s.mark = none → k ≤ 16 →
    s.acc.decayNum.toNat = 2 ^ (16 - k) → s.acc.raster.wf →
    execAll (nows.map .snapshot) s = .next t →
    ∀ a, (t.acc.raster.read a).toNat = (s.acc.raster.read a).toNat / 2 ^ (k * nows.length)

/-- R198: what a SNAPSHOT's copy shows. An event ingested before it shows at full colour; in the next copy it shows at
the decay of its colour, unless its pixel was painted again; an event ingested between shows at full colour. -/
def Obligations.CopiesShowThePaintTrail : Prop :=
  ∀ (ev1 ev2 : CDEvent) (now1 now2 : Ticks) (s t : State), s.mark = none → s.acc.raster.wf →
    s.acc.inBounds ev1.x ev1.y = true → s.acc.inBounds ev2.x ev2.y = true →
    execAll [.ingest [ev1], .snapshot now1, .ingest [ev2], .snapshot now2] s = .next t →
    ∃ r1 r2 : SnapResp, t.responses = s.responses ++ [.snap r1, .snap r2] ∧ ∀ c < 3,
      r1.raster.read (channelIndex s.acc.width ev1.x.toNat ev1.y.toNat c) =
        colorChannel (s.acc.colorOf ev1.polarity) c ∧
      r2.raster.read (channelIndex s.acc.width ev2.x.toNat ev2.y.toNat c) =
        colorChannel (s.acc.colorOf ev2.polarity) c ∧
      ((ev1.x, ev1.y) ≠ (ev2.x, ev2.y) →
        r2.raster.read (channelIndex s.acc.width ev1.x.toNat ev1.y.toNat c) =
          decayByte s.acc.decayNum (colorChannel (s.acc.colorOf ev1.polarity) c))

/-! ## RESET -/

/-- R194: construction and RESET compared. RESET clears the raster and event_count and leaves the decoder, frame_count,
the window, last_snapshot_time and the configuration as they are. -/
def Obligations.ResetIsNotConstruction : Prop :=
  (∀ (cfg : Cfg) (now0 : Ticks), (constructed cfg now0).dec = ⟨0, [], cfg.carryPolicy⟩ ∧
    (∀ a, (constructed cfg now0).acc.raster.read a = 0) ∧ (constructed cfg now0).acc.eventCount = 0 ∧
    (constructed cfg now0).acc.frameCount = 0 ∧ (constructed cfg now0).acc.fpsWindow = [] ∧
    (constructed cfg now0).acc.lastSnapshotTime = now0) ∧
  (∀ s : State, s.mark = none → ∃ m : Memory, (∀ a, m.read a = 0) ∧
    exec .reset s = .next { s with acc := { s.acc with raster := m, eventCount := 0 } })

/-- R148: a SNAPSHOT reports N; after RESET and any INGEST the next SNAPSHOT reports N + 1 (modulo 2^64), and its copy is
0 on every channel but those of the pixels ingested after the RESET. -/
def Obligations.ResetKeepsTheFrameCount : Prop :=
  ∀ (now1 now2 : Ticks) (evs : List CDEvent) (s t : State), s.mark = none →
    execAll [.snapshot now1, .reset, .ingest evs, .snapshot now2] s = .next t →
    ∃ r1 r2 : SnapResp, t.responses = s.responses ++ [.snap r1, .snap r2] ∧
      r2.frameCount = r1.frameCount + 1 ∧
      ∀ a, (∀ ev ∈ evs, s.acc.inBounds ev.x ev.y = true → ∀ c < 3,
          a ≠ channelIndex s.acc.width ev.x.toNat ev.y.toNat c) →
        r2.raster.read a = 0

/-! ## Invariants -/

/-- Every step keeps the invariant: legal registers (R31), a canonical raster inside its bounds (R25, R57), a short
carry that is empty under drop (R22), a window within its capacity (R29), timestamps below 2^34 (R32); and leaves no mark (R178). -/
def Obligations.StepKeepsInvariant : Prop :=
  ∀ s t : State, s.Inv → s.mark = none → step s = .next t → t.Inv ∧ t.mark = none

/-- The invariant holds after construction with any legal configuration (R190). -/
def Obligations.ConstructionSatisfiesInvariant : Prop :=
  ∀ (cfg : Cfg) (now0 : Ticks), CfgLegal cfg → (constructed cfg now0).Inv

/-- The reset state is safe: its configuration is legal (the values are the model's choice, log 1) and no mark is
set. -/
def Obligations.ResetStateIsSafe : Prop :=
  State.reset.Safe

/-! ## Instances -/

/-- R181, R192: a transaction to one instance, or a construction, touches no other instance. -/
def Obligations.InstancesShareNoState : Prop :=
  ∀ (sys sys' : System), sys.mark = none →
  (∀ (k : Nat) (bytes : List Byte) (r : List CDEvent), sys.decodeChunk k bytes = .next (sys', r) →
    sys'.painters = sys.painters ∧ ∀ j, j ≠ k → sys'.decoders[j]? = sys.decoders[j]?) ∧
  (∀ (k : Nat) (w : Word) (r : Option CDEvent), sys.decodeWord k w = .next (sys', r) →
    sys'.painters = sys.painters ∧ ∀ j, j ≠ k → sys'.decoders[j]? = sys.decoders[j]?) ∧
  (∀ (k : Nat) (evs : List CDEvent), sys.ingest k evs = .next (sys', ()) →
    sys'.decoders = sys.decoders ∧ ∀ j, j ≠ k → sys'.painters[j]? = sys.painters[j]?) ∧
  (∀ (k : Nat) (now : Ticks) (r : SnapResp), sys.snapshot k now = .next (sys', r) →
    sys'.decoders = sys.decoders ∧ ∀ j, j ≠ k → sys'.painters[j]? = sys.painters[j]?) ∧
  (∀ k : Nat, sys.reset k = .next (sys', ()) →
    sys'.decoders = sys.decoders ∧ ∀ j, j ≠ k → sys'.painters[j]? = sys.painters[j]?) ∧
  (∀ policy : CarryPolicy, sys.addDecoder policy = .next (sys', ()) →
    sys'.painters = sys.painters ∧ ∀ j < sys.decoders.length, sys'.decoders[j]? = sys.decoders[j]?) ∧
  (∀ (cfg : Cfg) (now0 : Ticks), sys.addPainter cfg now0 = .next (sys', ()) →
    sys'.decoders = sys.decoders ∧ ∀ j < sys.painters.length, sys'.painters[j]? = sys.painters[j]?)

/-- R63: independent streams may be decoded by independent decoders in either order, with the same lists and the same
system at the end. -/
def Obligations.IndependentStreamsCommute : Prop :=
  ∀ (sys a b : System) (j k : Nat) (bs cs : List Byte) (r q : List CDEvent), sys.mark = none → j ≠ k →
    sys.decodeChunk j bs = .next (a, r) → a.decodeChunk k cs = .next (b, q) →
    ∃ a', sys.decodeChunk k cs = .next (a', q) ∧ a'.decodeChunk j bs = .next (b, r)

/-- R36: one decoder's list may be given to several painters; each of them takes all of it, and no other instance
changes. -/
def Obligations.OneListFeedsManyPainters : Prop :=
  ∀ (sys : System) (evs : List CDEvent) (ks : List Nat), sys.mark = none → ks.Nodup →
    (∀ k ∈ ks, k < sys.painters.length) →
    ∃ sys', sys.feed evs ks = .next (sys', ()) ∧ sys'.decoders = sys.decoders ∧
      ∀ j, sys'.painters[j]? = if j ∈ ks then (sys.painters[j]?).map (·.ingest evs) else sys.painters[j]?

/-- Each instance of a system answers as the decoder or painter of the one-decoder, one-painter machine does (R36,
R181; log 17): the same instance after it, the same returned record, the same fault. -/
def Obligations.SystemRunsTheInstancesOwnTransaction : Prop :=
  ∀ (sys : System) (k : Nat) (s : State), sys.mark = none → s.mark = none →
  (sys.decoders[k]? = some s.dec →
    (∀ w, ∃ t r, Machine.exec (.decodeWord w) s = .next t ∧ t.responses = s.responses ++ [.word r] ∧
      sys.exec (.decodeWord k w) = .next ({ sys with decoders := sys.decoders.set k t.dec }, some (.word r))) ∧
    (∀ bytes, ∃ t r, Machine.exec (.decodeChunk bytes) s = .next t ∧ t.responses = s.responses ++ [.chunk r] ∧
      sys.exec (.decodeChunk k bytes) = .next ({ sys with decoders := sys.decoders.set k t.dec }, some (.chunk r)))) ∧
  (sys.painters[k]? = some s.acc →
    (∀ evs, ∃ t, Machine.exec (.ingest evs) s = .next t ∧
      sys.exec (.ingest k evs) = .next ({ sys with painters := sys.painters.set k t.acc }, none)) ∧
    (∃ t, Machine.exec .reset s = .next t ∧
      sys.exec (.reset k) = .next ({ sys with painters := sys.painters.set k t.acc }, none)) ∧
    (∀ (now : Ticks), s.acc.lastSnapshotTime.toNat ≤ now.toNat → ∃ t r, Machine.exec (.snapshot now) s = .next t ∧
      t.responses = s.responses ++ [.snap r] ∧
      sys.exec (.snapshot k now) = .next ({ sys with painters := sys.painters.set k t.acc }, some (.snap r))) ∧
    (∀ now : Ticks, now.toNat < s.acc.lastSnapshotTime.toNat →
      Machine.exec (.snapshot now) s = .fault .timeBackwards ∧ sys.exec (.snapshot k now) = .fault .timeBackwards))

/-- R178 for any number of instances: a fault or refusal sets the system's sticky mark and writes no other state; a
marked system answers no transaction to any instance and stays as it is; a transaction that completes leaves no mark;
the reserved command codes and an illegal configuration are refused. That the mark belongs to the whole system is the
model's choice (log 29). -/
def Obligations.SystemMarkIsStickyAndAlone : Prop :=
  (∀ (sys : System) (c : SystemCmd) (f : Fault), sys.mark = none → sys.exec c = .fault f →
    sys.transact c = { sys with mark := some (.fault f) }) ∧
  (∀ (sys : System) (c : SystemCmd) (r : Refusal), sys.mark = none → sys.exec c = .refused r →
    sys.transact c = { sys with mark := some (.refusal r) }) ∧
  (∀ (sys : System) (m : Mark) (c : SystemCmd), sys.mark = some m →
    sys.exec c = stoppedOutcome m ∧ sys.transact c = sys) ∧
  (∀ (sys sys' : System) (c : SystemCmd) (r : Option Response), sys.mark = none → sys.exec c = .next (sys', r) →
    sys'.mark = none) ∧
  (∀ (sys : System) (c : SystemCmd), sys.mark = none → c = .cmdRsv0 ∨ c = .cmdRsv6 ∨ c = .cmdRsv7 →
    sys.exec c = .refused .refuseCmd) ∧
  (∀ (sys : System) (cfg : Cfg) (now0 : Ticks), sys.mark = none → ¬ CfgLegal cfg →
    sys.exec (.addPainter cfg now0) = .refused .refuseConfig)

/-! ## The assembler -/

/-- R83: EV is its two words, which decode to one event with its timestamp and leave time_high = T[33:6] (from an empty
carry buffer); NOPW is RSV 0xF 0, the no-op word 0xF0000000; PROCESS is DECODE_CHUNK, then INGEST of the list it
returned. -/
def Obligations.PseudoInstructionsExpand : Prop :=
  (∀ (pol : Polarity) (x y ts : Nat) (s : State), s.mark = none → x ≤ 2047 → y ≤ 2047 → ts < 2 ^ 34 →
    s.dec.carry = [] →
    let words := [encodeTh (BitVec.ofNat 28 (ts / 64)),
      encodeCd pol (BitVec.ofNat 6 (ts % 64)) (BitVec.ofNat 11 x) (BitVec.ofNat 11 y)]
    assembleLine (.ev pol x y ts) = some (words.flatMap bytesOfWord) ∧
    ∃ t, exec (.decodeChunk (words.flatMap bytesOfWord)) s = .next t ∧
      t.out = [⟨BitVec.ofNat 11 x, BitVec.ofNat 11 y, pol, BitVec.ofNat 64 ts⟩] ∧
      t.dec.timeHigh.toNat = ts / 64) ∧
  assembleLine .nopw = assembleLine (.rsv 0xF 0) ∧ assembleLine .nopw = some (bytesOfWord 0xF0000000) ∧
  (∀ s : State, s.mark = none → exec (decodeEvt2 0xF0000000) s = .next s) ∧
  (∀ (bytes : List Byte) (s : State), s.mark = none → ∃ t evs, exec (.decodeChunk bytes) s = .next t ∧
    t.responses = s.responses ++ [.chunk evs] ∧ process bytes s = exec (.ingest evs) t)

/-- R82: a line with its operands in range assembles to the word of R78, little-endian; out of range it is an assembly
error. -/
def Obligations.AssemblerEncodesInRangeLinesOnly : Prop :=
  (∀ x y t : Nat, (assembleLine (.cdoff x y t)).isSome = decide (x ≤ 2047 ∧ y ≤ 2047 ∧ t ≤ 63)) ∧
  (∀ x y t : Nat, (assembleLine (.cdon x y t)).isSome = decide (x ≤ 2047 ∧ y ≤ 2047 ∧ t ≤ 63)) ∧
  (∀ (x y : BitVec 11) (t : BitVec 6), assembleLine (.cdoff x.toNat y.toNat t.toNat) = some (encode (.cdOff t x y)).bytes) ∧
  (∀ (x y : BitVec 11) (t : BitVec 6), assembleLine (.cdon x.toNat y.toNat t.toNat) = some (encode (.cdOn t x y)).bytes) ∧
  (∀ h : Nat, (assembleLine (.th h)).isSome = decide (h < 2 ^ 28)) ∧
  (∀ h : BitVec 28, assembleLine (.th h.toNat) = some (encode (.timeHigh h)).bytes) ∧
  (∀ tag p : Nat, (assembleLine (.rsv tag p)).isSome = decide (tag ∈ reservedTags ∧ p < 2 ^ 28)) ∧
  (∀ (tag : Nat) (p : BitVec 28), tag ∈ reservedTags →
    assembleLine (.rsv tag p.toNat) = some (bytesOfWord (BitVec.ofNat 32 (tag * 2 ^ 28 + p.toNat)))) ∧
  (∀ w : Nat, (assembleLine (.word w)).isSome = decide (w < 2 ^ 32)) ∧
  (∀ w : Word, assembleLine (.word w.toNat) = some (bytesOfWord w)) ∧
  (∀ bs : List Byte, assembleLine (.byte (bs.map (·.toNat))) = some bs)
end

