-- ==== Sys2Proof/Laws/Construct.lean ====
section
/-! SUPPORT. Construction (spec/70_reset_and_hazards.md R190), and the legal values of EPS (spec/00_scope.md R5). -/

namespace Sys2Proof.Machine

/-- EPS is legal exactly when the number it stands for is above 0 (R5). -/
theorem epsLegal_iff (e : Eps) : EpsLegal e ↔ 0 < epsValue e := by
  cases e with
  | ratio num den =>
    simp only [EpsLegal, epsLegal, epsValue, Bool.and_eq_true, decide_eq_true_eq, Rat.cast_pos]
    constructor
    · rintro ⟨hn, hd⟩
      positivity
    · intro h
      rcases Nat.eq_zero_or_pos den with rfl | hd
      · simp at h
      · have hq : (0 : ℚ) < den := by exact_mod_cast hd
        exact ⟨by exact_mod_cast (div_pos_iff_of_pos_right hq).1 h, hd⟩
  | real name =>
    simp only [EpsLegal, epsLegal, epsValue, true_iff]
    exact mul_self_pos.2 (Units.ne_zero _)

/-- What construction answers: the constructed state, or the refusal of an illegal configuration (R7, R190). -/
theorem construct_cases (cfg : Cfg) (now0 : Ticks) :
    (CfgLegal cfg ∧ construct cfg now0 = .next (constructed cfg now0)) ∨
    (¬ CfgLegal cfg ∧ construct cfg now0 = .refused .refuseConfig) := by
  by_cases h : CfgLegal cfg
  · exact .inl ⟨h, if_pos h⟩
  · exact .inr ⟨h, if_neg h⟩

/-- A constructed state has no mark set (R178). -/
@[simp] theorem constructed_mark (cfg : Cfg) (now0 : Ticks) : (constructed cfg now0).mark = none := rfl

end Sys2Proof.Machine
end

