-- ==== Sys2Proof/Laws/Encoding.lean ====
section
/-! SUPPORT. The bits of words and of encodings: a word is its four bytes, and each field of an encoding reads back
(spec/20_memory.md R51, spec/30_encoding.md R71 to R78). -/

namespace Sys2Proof

/-! ## Bytes and words -/

/-- A word is put together again from its bytes in stream order (R51). -/
theorem le32_bytes (w : Word) :
    le32 (w.extractLsb' 0 8) (w.extractLsb' 8 8) (w.extractLsb' 16 8) (w.extractLsb' 24 8) = w := by
  ext i hi
  simp only [le32]
  interval_cases i <;> simp

/-- Byte 0 of a word put together from four bytes (R51). -/
@[simp] theorem le32_byte0 (b0 b1 b2 b3 : Byte) : (le32 b0 b1 b2 b3).extractLsb' 0 8 = b0 := by
  ext i hi
  simp only [le32]
  interval_cases i <;> simp

/-- Byte 1 of a word put together from four bytes (R51). -/
@[simp] theorem le32_byte1 (b0 b1 b2 b3 : Byte) : (le32 b0 b1 b2 b3).extractLsb' 8 8 = b1 := by
  ext i hi
  simp only [le32]
  interval_cases i <;> simp

/-- Byte 2 of a word put together from four bytes (R51). -/
@[simp] theorem le32_byte2 (b0 b1 b2 b3 : Byte) : (le32 b0 b1 b2 b3).extractLsb' 16 8 = b2 := by
  ext i hi
  simp only [le32]
  interval_cases i <;> simp

/-- Byte 3 of a word put together from four bytes (R51). -/
@[simp] theorem le32_byte3 (b0 b1 b2 b3 : Byte) : (le32 b0 b1 b2 b3).extractLsb' 24 8 = b3 := by
  ext i hi
  simp only [le32]
  interval_cases i <;> simp

/-- The bytes of a word put together from four bytes are those bytes (R51). -/
@[simp] theorem bytesOfWord_le32 (b0 b1 b2 b3 : Byte) : bytesOfWord (le32 b0 b1 b2 b3) = [b0, b1, b2, b3] := by
  simp [bytesOfWord]

/-- A word has four bytes (R70). -/
@[simp] theorem bytesOfWord_length (w : Word) : (bytesOfWord w).length = 4 := rfl

/-- A 64-bit operand is put together again from its halves (log 6). -/
theorem le64_halves (t : BitVec 64) : le64 (t.extractLsb' 0 32) (t.extractLsb' 32 32) = t := by
  ext i hi
  simp only [le64]
  by_cases h : i < 32
  · simp [h, show i < 64 by omega]
  · simp [h, show 32 + (i - 32) = i by omega, show i - 32 < 32 by omega]
    exact BitVec.getLsbD_eq_getElem hi

/-! ## Fields of encodings -/

@[simp] theorem wordTag_encodeCd (pol : Polarity) (t : BitVec 6) (x y : BitVec 11) :
    wordTag (encodeCd pol t x y) = pol.bit.setWidth 4 := by
  ext i hi
  simp only [wordTag, encodeCd]
  interval_cases i <;> simp

@[simp] theorem wordTLow_encodeCd (pol : Polarity) (t : BitVec 6) (x y : BitVec 11) :
    wordTLow (encodeCd pol t x y) = t := by
  ext i hi
  simp only [wordTLow, encodeCd]
  interval_cases i <;> simp

@[simp] theorem wordX_encodeCd (pol : Polarity) (t : BitVec 6) (x y : BitVec 11) :
    wordX (encodeCd pol t x y) = x := by
  ext i hi
  simp only [wordX, encodeCd]
  interval_cases i <;> simp

@[simp] theorem wordY_encodeCd (pol : Polarity) (t : BitVec 6) (x y : BitVec 11) :
    wordY (encodeCd pol t x y) = y := by
  ext i hi
  simp only [wordY, encodeCd]
  interval_cases i <;> simp

@[simp] theorem wordTag_encodeTh (h : BitVec 28) : wordTag (encodeTh h) = 0x8#4 := by
  ext i hi
  simp only [wordTag, encodeTh]
  interval_cases i <;> simp

@[simp] theorem wordPayload_encodeTh (h : BitVec 28) : wordPayload (encodeTh h) = h := by
  ext i hi
  simp only [wordPayload, encodeTh]
  interval_cases i <;> simp

@[simp] theorem wordTag_encodeRsv (tag : BitVec 4) (p : BitVec 28) : wordTag (encodeRsv tag p) = tag := by
  ext i hi
  simp only [wordTag, encodeRsv]
  interval_cases i <;> simp

@[simp] theorem wordPayload_encodeRsv (tag : BitVec 4) (p : BitVec 28) : wordPayload (encodeRsv tag p) = p := by
  ext i hi
  simp only [wordPayload, encodeRsv]
  interval_cases i <;> simp

/-- A word is its tag and its payload (R71, R74). -/
theorem encodeRsv_tag_payload (w : Word) : encodeRsv (wordTag w) (wordPayload w) = w := by
  ext i hi
  simp only [wordTag, wordPayload, encodeRsv]
  interval_cases i <;> simp

/-- The sixteen tags (R71). -/
theorem tag_cases (t : BitVec 4) :
    t = 0x0#4 ∨ t = 0x1#4 ∨ t = 0x2#4 ∨ t = 0x3#4 ∨ t = 0x4#4 ∨ t = 0x5#4 ∨ t = 0x6#4 ∨ t = 0x7#4 ∨
    t = 0x8#4 ∨ t = 0x9#4 ∨ t = 0xA#4 ∨ t = 0xB#4 ∨ t = 0xC#4 ∨ t = 0xD#4 ∨ t = 0xE#4 ∨ t = 0xF#4 := by
  revert t; decide

/-- What decoding a word answers, tag by tag (R77). -/
theorem decodeEvt2_cases (w : Word) :
    (wordTag w = 0x0#4 ∧ decodeEvt2 w = .cdOff (wordTLow w) (wordX w) (wordY w)) ∨
    (wordTag w = 0x1#4 ∧ decodeEvt2 w = .cdOn (wordTLow w) (wordX w) (wordY w)) ∨
    (wordTag w = 0x2#4 ∧ decodeEvt2 w = .rsv2 (wordPayload w)) ∨
    (wordTag w = 0x3#4 ∧ decodeEvt2 w = .rsv3 (wordPayload w)) ∨
    (wordTag w = 0x4#4 ∧ decodeEvt2 w = .rsv4 (wordPayload w)) ∨
    (wordTag w = 0x5#4 ∧ decodeEvt2 w = .rsv5 (wordPayload w)) ∨
    (wordTag w = 0x6#4 ∧ decodeEvt2 w = .rsv6 (wordPayload w)) ∨
    (wordTag w = 0x7#4 ∧ decodeEvt2 w = .rsv7 (wordPayload w)) ∨
    (wordTag w = 0x8#4 ∧ decodeEvt2 w = .timeHigh (wordPayload w)) ∨
    (wordTag w = 0x9#4 ∧ decodeEvt2 w = .rsv9 (wordPayload w)) ∨
    (wordTag w = 0xA#4 ∧ decodeEvt2 w = .rsvA (wordPayload w)) ∨
    (wordTag w = 0xB#4 ∧ decodeEvt2 w = .rsvB (wordPayload w)) ∨
    (wordTag w = 0xC#4 ∧ decodeEvt2 w = .rsvC (wordPayload w)) ∨
    (wordTag w = 0xD#4 ∧ decodeEvt2 w = .rsvD (wordPayload w)) ∨
    (wordTag w = 0xE#4 ∧ decodeEvt2 w = .rsvE (wordPayload w)) ∨
    (wordTag w = 0xF#4 ∧ decodeEvt2 w = .rsvF (wordPayload w)) := by
  rcases tag_cases (wordTag w) with h | h | h | h | h | h | h | h | h | h | h | h | h | h | h | h <;>
    simp [decodeEvt2, h]

/-- A decoded word is one of the sixteen word instructions: its frame is a stream frame. -/
theorem decodeEvt2_isWord (w : Word) : (encode (decodeEvt2 w)).port = .stream := by
  rcases decodeEvt2_cases w with h | h | h | h | h | h | h | h | h | h | h | h | h | h | h | h <;>
    rw [h.2] <;> rfl

end Sys2Proof
end

