-- ==== Sys2Proof/Laws/State.lean ====
section
/-! SUPPORT. One lemma per field per update of the state records, so that no proof unfolds an update. -/

namespace Sys2Proof.Machine

/-! ## The state -/

@[simp] theorem state_emit_dec (s : State) (r : Option CDEvent) : (s.emit r).dec = s.dec := rfl
@[simp] theorem state_emit_acc (s : State) (r : Option CDEvent) : (s.emit r).acc = s.acc := rfl
@[simp] theorem state_emit_out (s : State) (r : Option CDEvent) : (s.emit r).out = s.out ++ r.toList := rfl
@[simp] theorem state_emit_responses (s : State) (r : Option CDEvent) : (s.emit r).responses = s.responses := rfl
@[simp] theorem state_emit_mark (s : State) (r : Option CDEvent) : (s.emit r).mark = s.mark := rfl
@[simp] theorem state_emit_input (s : State) (r : Option CDEvent) : (s.emit r).input = s.input := rfl

@[simp] theorem state_withDec_dec (s : State) (d : Decoder) : (s.withDec d).dec = d := rfl
@[simp] theorem state_withDec_acc (s : State) (d : Decoder) : (s.withDec d).acc = s.acc := rfl
@[simp] theorem state_withDec_out (s : State) (d : Decoder) : (s.withDec d).out = s.out := rfl
@[simp] theorem state_withDec_responses (s : State) (d : Decoder) : (s.withDec d).responses = s.responses := rfl
@[simp] theorem state_withDec_mark (s : State) (d : Decoder) : (s.withDec d).mark = s.mark := rfl
@[simp] theorem state_withDec_input (s : State) (d : Decoder) : (s.withDec d).input = s.input := rfl

@[simp] theorem state_withAcc_dec (s : State) (p : Painter) : (s.withAcc p).dec = s.dec := rfl
@[simp] theorem state_withAcc_acc (s : State) (p : Painter) : (s.withAcc p).acc = p := rfl
@[simp] theorem state_withAcc_out (s : State) (p : Painter) : (s.withAcc p).out = s.out := rfl
@[simp] theorem state_withAcc_responses (s : State) (p : Painter) : (s.withAcc p).responses = s.responses := rfl
@[simp] theorem state_withAcc_mark (s : State) (p : Painter) : (s.withAcc p).mark = s.mark := rfl
@[simp] theorem state_withAcc_input (s : State) (p : Painter) : (s.withAcc p).input = s.input := rfl

@[simp] theorem state_withOut_dec (s : State) (evs : List CDEvent) : (s.withOut evs).dec = s.dec := rfl
@[simp] theorem state_withOut_acc (s : State) (evs : List CDEvent) : (s.withOut evs).acc = s.acc := rfl
@[simp] theorem state_withOut_out (s : State) (evs : List CDEvent) : (s.withOut evs).out = evs := rfl
@[simp] theorem state_withOut_responses (s : State) (evs : List CDEvent) : (s.withOut evs).responses = s.responses := rfl
@[simp] theorem state_withOut_mark (s : State) (evs : List CDEvent) : (s.withOut evs).mark = s.mark := rfl
@[simp] theorem state_withOut_input (s : State) (evs : List CDEvent) : (s.withOut evs).input = s.input := rfl

@[simp] theorem state_respond_dec (s : State) (r : Response) : (s.respond r).dec = s.dec := rfl
@[simp] theorem state_respond_acc (s : State) (r : Response) : (s.respond r).acc = s.acc := rfl
@[simp] theorem state_respond_out (s : State) (r : Response) : (s.respond r).out = s.out := rfl
@[simp] theorem state_respond_responses (s : State) (r : Response) : (s.respond r).responses = s.responses ++ [r] := rfl
@[simp] theorem state_respond_mark (s : State) (r : Response) : (s.respond r).mark = s.mark := rfl
@[simp] theorem state_respond_input (s : State) (r : Response) : (s.respond r).input = s.input := rfl

@[simp] theorem state_withInput_dec (s : State) (fs : List Frame) : (s.withInput fs).dec = s.dec := rfl
@[simp] theorem state_withInput_acc (s : State) (fs : List Frame) : (s.withInput fs).acc = s.acc := rfl
@[simp] theorem state_withInput_out (s : State) (fs : List Frame) : (s.withInput fs).out = s.out := rfl
@[simp] theorem state_withInput_responses (s : State) (fs : List Frame) : (s.withInput fs).responses = s.responses := rfl
@[simp] theorem state_withInput_mark (s : State) (fs : List Frame) : (s.withInput fs).mark = s.mark := rfl
@[simp] theorem state_withInput_input (s : State) (fs : List Frame) : (s.withInput fs).input = fs := rfl

@[simp] theorem state_setMark_dec (s : State) (m : Mark) : (s.setMark m).dec = s.dec := rfl
@[simp] theorem state_setMark_acc (s : State) (m : Mark) : (s.setMark m).acc = s.acc := rfl
@[simp] theorem state_setMark_out (s : State) (m : Mark) : (s.setMark m).out = s.out := rfl
@[simp] theorem state_setMark_responses (s : State) (m : Mark) : (s.setMark m).responses = s.responses := rfl
@[simp] theorem state_setMark_mark (s : State) (m : Mark) : (s.setMark m).mark = some m := rfl
@[simp] theorem state_setMark_input (s : State) (m : Mark) : (s.setMark m).input = s.input := rfl

@[simp] theorem state_applyWord_dec (s : State) (r : BitVec 28 × Option CDEvent) : (s.applyWord r).dec = s.dec.setTimeHigh r.1 := rfl
@[simp] theorem state_applyWord_acc (s : State) (r : BitVec 28 × Option CDEvent) : (s.applyWord r).acc = s.acc := rfl
@[simp] theorem state_applyWord_out (s : State) (r : BitVec 28 × Option CDEvent) : (s.applyWord r).out = s.out ++ r.2.toList := rfl
@[simp] theorem state_applyWord_responses (s : State) (r : BitVec 28 × Option CDEvent) : (s.applyWord r).responses = s.responses := rfl
@[simp] theorem state_applyWord_mark (s : State) (r : BitVec 28 × Option CDEvent) : (s.applyWord r).mark = s.mark := rfl
@[simp] theorem state_applyWord_input (s : State) (r : BitVec 28 × Option CDEvent) : (s.applyWord r).input = s.input := rfl

@[simp] theorem state_issueFirst_dec (s : State) (f : Frame) : (s.issueFirst f).dec = s.dec := rfl
@[simp] theorem state_issueFirst_acc (s : State) (f : Frame) : (s.issueFirst f).acc = s.acc := rfl
@[simp] theorem state_issueFirst_out (s : State) (f : Frame) : (s.issueFirst f).out = s.out := rfl
@[simp] theorem state_issueFirst_responses (s : State) (f : Frame) : (s.issueFirst f).responses = s.responses := rfl
@[simp] theorem state_issueFirst_mark (s : State) (f : Frame) : (s.issueFirst f).mark = s.mark := rfl
@[simp] theorem state_issueFirst_input (s : State) (f : Frame) : (s.issueFirst f).input = f :: s.input := rfl

/-! ## The decoder -/

@[simp] theorem decoder_setTimeHigh_timeHigh (d : Decoder) (v : BitVec 28) : (d.setTimeHigh v).timeHigh = v := rfl
@[simp] theorem decoder_setTimeHigh_carry (d : Decoder) (v : BitVec 28) : (d.setTimeHigh v).carry = d.carry := rfl
@[simp] theorem decoder_setTimeHigh_carryPolicy (d : Decoder) (v : BitVec 28) : (d.setTimeHigh v).carryPolicy = d.carryPolicy := rfl

@[simp] theorem decoder_setCarry_timeHigh (d : Decoder) (bytes : List Byte) : (d.setCarry bytes).timeHigh = d.timeHigh := rfl
@[simp] theorem decoder_setCarry_carry (d : Decoder) (bytes : List Byte) : (d.setCarry bytes).carry = bytes := rfl
@[simp] theorem decoder_setCarry_carryPolicy (d : Decoder) (bytes : List Byte) : (d.setCarry bytes).carryPolicy = d.carryPolicy := rfl

/-! ## The painter -/

@[simp] theorem painter_paintEvent_width (p : Painter) (ev : CDEvent) : (p.paintEvent ev).width = p.width := rfl
@[simp] theorem painter_paintEvent_height (p : Painter) (ev : CDEvent) : (p.paintEvent ev).height = p.height := rfl
@[simp] theorem painter_paintEvent_decayNum (p : Painter) (ev : CDEvent) :
    (p.paintEvent ev).decayNum = p.decayNum := rfl
@[simp] theorem painter_paintEvent_fpsCapacity (p : Painter) (ev : CDEvent) :
    (p.paintEvent ev).fpsCapacity = p.fpsCapacity := rfl
@[simp] theorem painter_paintEvent_onColor (p : Painter) (ev : CDEvent) : (p.paintEvent ev).onColor = p.onColor := rfl
@[simp] theorem painter_paintEvent_offColor (p : Painter) (ev : CDEvent) :
    (p.paintEvent ev).offColor = p.offColor := rfl
@[simp] theorem painter_paintEvent_tickHz (p : Painter) (ev : CDEvent) : (p.paintEvent ev).tickHz = p.tickHz := rfl
@[simp] theorem painter_paintEvent_eps (p : Painter) (ev : CDEvent) : (p.paintEvent ev).eps = p.eps := rfl
@[simp] theorem painter_paintEvent_fpsInst (p : Painter) (ev : CDEvent) : (p.paintEvent ev).fpsInst = p.fpsInst := rfl
@[simp] theorem painter_paintEvent_fpsSmooth (p : Painter) (ev : CDEvent) :
    (p.paintEvent ev).fpsSmooth = p.fpsSmooth := rfl
@[simp] theorem painter_paintEvent_raster (p : Painter) (ev : CDEvent) :
    (p.paintEvent ev).raster = p.raster.paint p.width ev.x.toNat ev.y.toNat (p.colorOf ev.polarity) := rfl
@[simp] theorem painter_paintEvent_eventCount (p : Painter) (ev : CDEvent) :
    (p.paintEvent ev).eventCount = p.eventCount + 1 := rfl
@[simp] theorem painter_paintEvent_frameCount (p : Painter) (ev : CDEvent) :
    (p.paintEvent ev).frameCount = p.frameCount := rfl
@[simp] theorem painter_paintEvent_fpsWindow (p : Painter) (ev : CDEvent) :
    (p.paintEvent ev).fpsWindow = p.fpsWindow := rfl
@[simp] theorem painter_paintEvent_lastSnapshotTime (p : Painter) (ev : CDEvent) :
    (p.paintEvent ev).lastSnapshotTime = p.lastSnapshotTime := rfl

@[simp] theorem painter_sample_width (p : Painter) (now : Ticks) : (p.sample now).width = p.width := rfl
@[simp] theorem painter_sample_height (p : Painter) (now : Ticks) : (p.sample now).height = p.height := rfl
@[simp] theorem painter_sample_decayNum (p : Painter) (now : Ticks) : (p.sample now).decayNum = p.decayNum := rfl
@[simp] theorem painter_sample_fpsCapacity (p : Painter) (now : Ticks) :
    (p.sample now).fpsCapacity = p.fpsCapacity := rfl
@[simp] theorem painter_sample_onColor (p : Painter) (now : Ticks) : (p.sample now).onColor = p.onColor := rfl
@[simp] theorem painter_sample_offColor (p : Painter) (now : Ticks) : (p.sample now).offColor = p.offColor := rfl
@[simp] theorem painter_sample_tickHz (p : Painter) (now : Ticks) : (p.sample now).tickHz = p.tickHz := rfl
@[simp] theorem painter_sample_eps (p : Painter) (now : Ticks) : (p.sample now).eps = p.eps := rfl
@[simp] theorem painter_sample_fpsInst (p : Painter) (now : Ticks) : (p.sample now).fpsInst = p.fpsInst := rfl
@[simp] theorem painter_sample_fpsSmooth (p : Painter) (now : Ticks) : (p.sample now).fpsSmooth = p.fpsSmooth := rfl
@[simp] theorem painter_sample_raster (p : Painter) (now : Ticks) : (p.sample now).raster = p.raster := rfl
@[simp] theorem painter_sample_eventCount (p : Painter) (now : Ticks) : (p.sample now).eventCount = p.eventCount := rfl
@[simp] theorem painter_sample_frameCount (p : Painter) (now : Ticks) : (p.sample now).frameCount = p.frameCount := rfl
@[simp] theorem painter_sample_fpsWindow (p : Painter) (now : Ticks) :
    (p.sample now).fpsWindow = p.pushWindow (p.elapsed now) := rfl
@[simp] theorem painter_sample_lastSnapshotTime (p : Painter) (now : Ticks) :
    (p.sample now).lastSnapshotTime = now := rfl

@[simp] theorem painter_decayRaster_width (p : Painter) : (p.decayRaster).width = p.width := rfl
@[simp] theorem painter_decayRaster_height (p : Painter) : (p.decayRaster).height = p.height := rfl
@[simp] theorem painter_decayRaster_decayNum (p : Painter) : (p.decayRaster).decayNum = p.decayNum := rfl
@[simp] theorem painter_decayRaster_fpsCapacity (p : Painter) : (p.decayRaster).fpsCapacity = p.fpsCapacity := rfl
@[simp] theorem painter_decayRaster_onColor (p : Painter) : (p.decayRaster).onColor = p.onColor := rfl
@[simp] theorem painter_decayRaster_offColor (p : Painter) : (p.decayRaster).offColor = p.offColor := rfl
@[simp] theorem painter_decayRaster_tickHz (p : Painter) : (p.decayRaster).tickHz = p.tickHz := rfl
@[simp] theorem painter_decayRaster_eps (p : Painter) : (p.decayRaster).eps = p.eps := rfl
@[simp] theorem painter_decayRaster_fpsInst (p : Painter) : (p.decayRaster).fpsInst = p.fpsInst := rfl
@[simp] theorem painter_decayRaster_fpsSmooth (p : Painter) : (p.decayRaster).fpsSmooth = p.fpsSmooth := rfl
@[simp] theorem painter_decayRaster_raster (p : Painter) : (p.decayRaster).raster = p.raster.decay p.decayNum := rfl
@[simp] theorem painter_decayRaster_eventCount (p : Painter) : (p.decayRaster).eventCount = p.eventCount := rfl
@[simp] theorem painter_decayRaster_frameCount (p : Painter) : (p.decayRaster).frameCount = p.frameCount := rfl
@[simp] theorem painter_decayRaster_fpsWindow (p : Painter) : (p.decayRaster).fpsWindow = p.fpsWindow := rfl
@[simp] theorem painter_decayRaster_lastSnapshotTime (p : Painter) :
    (p.decayRaster).lastSnapshotTime = p.lastSnapshotTime := rfl

@[simp] theorem painter_countFrame_width (p : Painter) : (p.countFrame).width = p.width := rfl
@[simp] theorem painter_countFrame_height (p : Painter) : (p.countFrame).height = p.height := rfl
@[simp] theorem painter_countFrame_decayNum (p : Painter) : (p.countFrame).decayNum = p.decayNum := rfl
@[simp] theorem painter_countFrame_fpsCapacity (p : Painter) : (p.countFrame).fpsCapacity = p.fpsCapacity := rfl
@[simp] theorem painter_countFrame_onColor (p : Painter) : (p.countFrame).onColor = p.onColor := rfl
@[simp] theorem painter_countFrame_offColor (p : Painter) : (p.countFrame).offColor = p.offColor := rfl
@[simp] theorem painter_countFrame_tickHz (p : Painter) : (p.countFrame).tickHz = p.tickHz := rfl
@[simp] theorem painter_countFrame_eps (p : Painter) : (p.countFrame).eps = p.eps := rfl
@[simp] theorem painter_countFrame_fpsInst (p : Painter) : (p.countFrame).fpsInst = p.fpsInst := rfl
@[simp] theorem painter_countFrame_fpsSmooth (p : Painter) : (p.countFrame).fpsSmooth = p.fpsSmooth := rfl
@[simp] theorem painter_countFrame_raster (p : Painter) : (p.countFrame).raster = p.raster := rfl
@[simp] theorem painter_countFrame_eventCount (p : Painter) : (p.countFrame).eventCount = 0 := rfl
@[simp] theorem painter_countFrame_frameCount (p : Painter) : (p.countFrame).frameCount = p.frameCount + 1 := rfl
@[simp] theorem painter_countFrame_fpsWindow (p : Painter) : (p.countFrame).fpsWindow = p.fpsWindow := rfl
@[simp] theorem painter_countFrame_lastSnapshotTime (p : Painter) :
    (p.countFrame).lastSnapshotTime = p.lastSnapshotTime := rfl

@[simp] theorem painter_reset_width (p : Painter) : (p.reset).width = p.width := rfl
@[simp] theorem painter_reset_height (p : Painter) : (p.reset).height = p.height := rfl
@[simp] theorem painter_reset_decayNum (p : Painter) : (p.reset).decayNum = p.decayNum := rfl
@[simp] theorem painter_reset_fpsCapacity (p : Painter) : (p.reset).fpsCapacity = p.fpsCapacity := rfl
@[simp] theorem painter_reset_onColor (p : Painter) : (p.reset).onColor = p.onColor := rfl
@[simp] theorem painter_reset_offColor (p : Painter) : (p.reset).offColor = p.offColor := rfl
@[simp] theorem painter_reset_tickHz (p : Painter) : (p.reset).tickHz = p.tickHz := rfl
@[simp] theorem painter_reset_eps (p : Painter) : (p.reset).eps = p.eps := rfl
@[simp] theorem painter_reset_fpsInst (p : Painter) : (p.reset).fpsInst = p.fpsInst := rfl
@[simp] theorem painter_reset_fpsSmooth (p : Painter) : (p.reset).fpsSmooth = p.fpsSmooth := rfl
@[simp] theorem painter_reset_raster (p : Painter) : (p.reset).raster = p.raster.clear := rfl
@[simp] theorem painter_reset_eventCount (p : Painter) : (p.reset).eventCount = 0 := rfl
@[simp] theorem painter_reset_frameCount (p : Painter) : (p.reset).frameCount = p.frameCount := rfl
@[simp] theorem painter_reset_fpsWindow (p : Painter) : (p.reset).fpsWindow = p.fpsWindow := rfl
@[simp] theorem painter_reset_lastSnapshotTime (p : Painter) : (p.reset).lastSnapshotTime = p.lastSnapshotTime := rfl

end Sys2Proof.Machine
end

