-- ==== Sys2Proof/Laws/Decoder.lean ====
section
/-! SUPPORT. The decoder's operations: how bytes are cut into words (spec/20_memory.md R52), what a step of one word
and of a list of words can do (spec/40_decoder.md R100 to R104), and what each decoder instruction answers. -/

namespace Sys2Proof.Machine

/-! ## Cutting bytes into words -/

/-- Fewer than four bytes complete no word (R53). -/
theorem splitWords_short {tail : List Byte} (h : tail.length < 4) : splitWords tail = ([], tail) := by
  match tail, h with
  | [], _ => rfl
  | [_], _ => rfl
  | [_, _], _ => rfl
  | [_, _, _], _ => rfl
  | _ :: _ :: _ :: _ :: _, h => simp at h; omega

/-- One whole word at the front is cut off first. -/
theorem splitWords_cons (w : Word) (bytes : List Byte) :
    splitWords (bytesOfWord w ++ bytes) = (w :: (splitWords bytes).1, (splitWords bytes).2) := by
  simp [bytesOfWord, splitWords, le32_bytes]

/-- Whole words and a short tail are cut back into those words and that tail. -/
theorem splitWords_words (ws : List Word) {tail : List Byte} (h : tail.length < 4) :
    splitWords (ws.flatMap bytesOfWord ++ tail) = (ws, tail) := by
  induction ws with
  | nil => simpa using splitWords_short h
  | cons w ws ih => rw [List.flatMap_cons, List.append_assoc, splitWords_cons, ih]

/-- Cutting loses nothing, and leaves fewer than four bytes (R52, R53). -/
theorem splitWords_spec (bytes : List Byte) :
    bytes = (splitWords bytes).1.flatMap bytesOfWord ++ (splitWords bytes).2 ∧ (splitWords bytes).2.length < 4 := by
  induction bytes using splitWords.induct with
  | case1 b0 b1 b2 b3 rest ih =>
    obtain ⟨h1, h2⟩ := ih
    refine ⟨?_, h2⟩
    simp only [splitWords, List.flatMap_cons, bytesOfWord_le32, List.append_assoc]
    rw [← h1]
    rfl
  | case2 tail h =>
    match tail, h with
    | [], _ => simp [splitWords]
    | [_], _ => simp [splitWords]
    | [_, _], _ => simp [splitWords]
    | [_, _, _], _ => simp [splitWords]
    | b0 :: b1 :: b2 :: b3 :: rest, h => exact (h b0 b1 b2 b3 rest rfl).elim

/-- Cutting a buffer and then going on with its tail is cutting the longer buffer (R106, R113). -/
theorem splitWords_append (xs ys : List Byte) :
    splitWords (xs ++ ys) =
      ((splitWords xs).1 ++ (splitWords ((splitWords xs).2 ++ ys)).1, (splitWords ((splitWords xs).2 ++ ys)).2) := by
  obtain ⟨h, -⟩ := splitWords_spec xs
  generalize (splitWords xs).1 = ws at h ⊢
  generalize (splitWords xs).2 = tail at h ⊢
  subst h
  induction ws with
  | nil => simp
  | cons w ws ih =>
    rw [List.flatMap_cons, List.append_assoc, List.append_assoc, splitWords_cons]
    rw [List.append_assoc] at ih
    rw [ih]
    rfl

/-! ## Stepping words -/

/-- What one word can do (R101 to R104): emit one event under the current time_high, load time_high, or nothing. -/
theorem stepWord_cases (th : BitVec 28) (w : Word) :
    (wordTag w = 0x0#4 ∧ stepWord th w = (th, some (cdEvent .off th (wordTLow w) (wordX w) (wordY w)))) ∨
    (wordTag w = 0x1#4 ∧ stepWord th w = (th, some (cdEvent .on th (wordTLow w) (wordX w) (wordY w)))) ∨
    (wordTag w = 0x8#4 ∧ stepWord th w = (wordPayload w, none)) ∨
    (wordTag w ≠ 0x0#4 ∧ wordTag w ≠ 0x1#4 ∧ wordTag w ≠ 0x8#4 ∧ stepWord th w = (th, none)) := by
  rcases decodeEvt2_cases w with h | h | h | h | h | h | h | h | h | h | h | h | h | h | h | h
  · exact .inl ⟨h.1, by rw [stepWord, h.2]; rfl⟩
  · exact .inr (.inl ⟨h.1, by rw [stepWord, h.2]; rfl⟩)
  on_goal 7 => exact .inr (.inr (.inl ⟨h.1, by rw [stepWord, h.2]; rfl⟩))
  all_goals
    refine .inr (.inr (.inr ⟨?_, ?_, ?_, ?_⟩))
    · rw [h.1]; decide
    · rw [h.1]; decide
    · rw [h.1]; decide
    · rw [stepWord, h.2]; rfl

@[simp] theorem stepWords_nil (th : BitVec 28) : stepWords th [] = (th, []) := rfl

theorem stepWords_cons (th : BitVec 28) (w : Word) (ws : List Word) :
    stepWords th (w :: ws) =
      ((stepWords (stepWord th w).1 ws).1, (stepWord th w).2.toList ++ (stepWords (stepWord th w).1 ws).2) := rfl

/-- Stepping a longer list goes on from where the shorter one stopped (R62). -/
theorem stepWords_append (th : BitVec 28) (ws vs : List Word) :
    stepWords th (ws ++ vs) =
      ((stepWords (stepWords th ws).1 vs).1, (stepWords th ws).2 ++ (stepWords (stepWords th ws).1 vs).2) := by
  induction ws generalizing th with
  | nil => rfl
  | cons w ws ih => simp [stepWords_cons, ih, List.append_assoc]

/-! ## What the decoder's instructions answer -/

/-- A word instruction applies its arm of `step_word` to the block (R100, R105). -/
theorem exec_word (w : Word) (s : State) :
    exec (decodeEvt2 w) s = .next (s.applyWord (stepWord s.dec.timeHigh w)) := by
  rcases decodeEvt2_cases w with h | h | h | h | h | h | h | h | h | h | h | h | h | h | h | h <;>
    simp only [stepWord, h.2] <;> rfl

/-- DECODE_WORD always answers a next state, and which (R105). -/
theorem exec_decodeWord (w : Word) (s : State) :
    exec (.decodeWord w) s = .next
      (((s.withDec (s.dec.decodeWord w).1).withOut (s.dec.decodeWord w).2.toList).respond
        (.word (s.dec.decodeWord w).2)) := rfl

/-- DECODE_CHUNK always answers a next state, and which (R106, R107). -/
theorem exec_decodeChunk (bytes : List Byte) (s : State) :
    exec (.decodeChunk bytes) s = .next
      (((s.withDec (s.dec.decodeChunk bytes).1).withOut (s.dec.decodeChunk bytes).2).respond
        (.chunk (s.dec.decodeChunk bytes).2)) := rfl

theorem decodeChunk_carry {d : Decoder} (h : d.carryPolicy = .carry) (bytes : List Byte) :
    d.decodeChunk bytes = d.chunkCarry bytes := by rw [Decoder.decodeChunk, h]

theorem decodeChunk_drop {d : Decoder} (h : d.carryPolicy = .drop) (bytes : List Byte) :
    d.decodeChunk bytes = d.chunkDrop bytes := by rw [Decoder.decodeChunk, h]

/-- Neither decoder transaction writes the policy register (R31). -/
@[simp] theorem decodeChunk_carryPolicy (d : Decoder) (bytes : List Byte) :
    (d.decodeChunk bytes).1.carryPolicy = d.carryPolicy := by
  unfold Decoder.decodeChunk
  split <;> rfl

end Sys2Proof.Machine
end

