-- ==== Sys2Proof/Laws/Memory.lean ====
section
/-! SUPPORT. The raster memory: what a read gives after a write, a paint, a decay and a clear, and that each of them
keeps the canonical form and the bounds (spec/20_memory.md R55 to R57, spec/41_painter.md R133, R139, R143). -/

namespace Sys2Proof.Machine

/-! ## Reading -/

@[simp] theorem memory_read_nil (a : Nat) : Memory.read [] a = Memory.unlisted := rfl

@[simp] theorem memory_read_cons (c : Host.Cell) (m : Memory) (a : Nat) :
    Memory.read (c :: m) a = if c.1 = a then c.2 else Memory.read m a := rfl

/-- An index that is not listed reads as unlisted. -/
theorem memory_read_of_not_mem {m : Memory} {a : Nat} (h : ∀ c ∈ m, c.1 ≠ a) :
    Memory.read m a = Memory.unlisted := by
  induction m with
  | nil => rfl
  | cons c m ih =>
    rw [memory_read_cons, if_neg (h c (by simp))]
    exact ih fun d hd => h d (by simp [hd])

/-! ## Writing -/

theorem memory_write_nil (a : Nat) (v : Byte) :
    Memory.write [] a v = if v = Memory.unlisted then [] else [(a, v)] := rfl

theorem memory_write_cons (c : Host.Cell) (m : Memory) (a : Nat) (v : Byte) :
    Memory.write (c :: m) a v =
      if c.1 < a then c :: Memory.write m a v
      else if c.1 = a then (if v = Memory.unlisted then m else (a, v) :: m)
      else if v = Memory.unlisted then c :: m else (a, v) :: c :: m := rfl

/-- The listed channels after a write are old ones or the written one. -/
theorem memory_mem_write {m : Memory} {a : Nat} {v : Byte} {c : Host.Cell} (h : c ∈ m.write a v) :
    c ∈ m ∨ c = (a, v) := by
  induction m with
  | nil =>
    rw [memory_write_nil] at h
    split at h <;> simp_all
  | cons d m ih =>
    rw [memory_write_cons] at h
    split at h
    · rcases List.mem_cons.1 h with h | h
      · simp [h]
      · rcases ih h with h | h <;> simp [h]
    · split at h
      · split at h
        · simp [h]
        · rcases List.mem_cons.1 h with h | h <;> simp [h]
      · split at h
        · exact .inl h
        · rcases List.mem_cons.1 h with h | h
          · exact .inr h
          · exact .inl h

/-- Read after write: the written channel reads as written, every other channel as before. -/
theorem memory_read_write {m : Memory} (hm : m.wf) (a b : Nat) (v : Byte) :
    (m.write a v).read b = if b = a then v else m.read b := by
  obtain ⟨hs, -⟩ := hm
  induction m with
  | nil =>
    rw [memory_write_nil]
    by_cases hv : v = Memory.unlisted
    · rw [if_pos hv]; simp [hv]
    · rw [if_neg hv]; simp [eq_comm]
  | cons c m ih =>
    obtain ⟨hlt, hs⟩ := List.pairwise_cons.1 hs
    have ih := ih hs
    have above : c.1 = a ∨ a < c.1 → Memory.read m a = Memory.unlisted := fun h =>
      memory_read_of_not_mem fun d hd => by have := hlt d hd; omega
    rw [memory_write_cons]
    by_cases h1 : c.1 < a
    · rw [if_pos h1, memory_read_cons, memory_read_cons, ih]
      by_cases hb : c.1 = b
      · simp [hb, show b ≠ a by omega]
      · simp [hb]
    · rw [if_neg h1]
      by_cases h2 : c.1 = a
      · rw [if_pos h2]
        by_cases hv : v = Memory.unlisted
        · rw [if_pos hv]
          by_cases hb : b = a
          · simp [hb, above (.inl h2), hv]
          · simp [hb, show c.1 ≠ b by omega]
        · rw [if_neg hv]
          by_cases hb : b = a
          · simp [hb]
          · simp [hb, Ne.symm hb, show c.1 ≠ b by omega]
      · rw [if_neg h2]
        by_cases hv : v = Memory.unlisted
        · rw [if_pos hv]
          by_cases hb : b = a
          · simp [hb, h2, above (.inr (by omega)), hv]
          · simp [hb]
        · rw [if_neg hv]
          by_cases hb : b = a
          · simp [hb]
          · simp [hb, Ne.symm hb]

/-- A write keeps the canonical form. -/
theorem memory_wf_write {m : Memory} (hm : m.wf) (a : Nat) (v : Byte) : (m.write a v).wf := by
  obtain ⟨hs, hz⟩ := hm
  refine ⟨?_, ?_⟩
  · induction m with
    | nil => rw [memory_write_nil]; split <;> simp
    | cons c m ih =>
      obtain ⟨hlt, hs⟩ := List.pairwise_cons.1 hs
      rw [memory_write_cons]
      split
      · refine List.pairwise_cons.2 ⟨fun d hd => ?_, ih hs fun d hd => hz d (by simp [hd])⟩
        rcases memory_mem_write hd with hd | rfl
        · exact hlt d hd
        · assumption
      · split
        · rename_i h2
          split
          · exact hs
          · exact List.pairwise_cons.2 ⟨fun d hd => h2 ▸ hlt d hd, hs⟩
        · split
          · exact List.pairwise_cons.2 ⟨hlt, hs⟩
          · refine List.pairwise_cons.2 ⟨fun d hd => ?_, List.pairwise_cons.2 ⟨hlt, hs⟩⟩
            show a < d.1
            rcases List.mem_cons.1 hd with rfl | hd
            · omega
            · have := hlt d hd; omega
  · intro d hd
    by_cases hv : v = Memory.unlisted
    · induction m with
      | nil => rw [memory_write_nil, if_pos hv] at hd; simp at hd
      | cons c m ih =>
        have hm : ∀ d ∈ m, d.2 ≠ Memory.unlisted := fun d hd => hz d (by simp [hd])
        rw [memory_write_cons, if_pos hv, if_pos hv] at hd
        split at hd
        · rcases List.mem_cons.1 hd with rfl | hd
          · exact hz _ (by simp)
          · exact ih (List.pairwise_cons.1 hs).2 hm hd
        · split at hd
          · exact hm d hd
          · exact hz d hd
    · rcases memory_mem_write hd with hd | rfl
      · exact hz d hd
      · exact hv

/-- A write inside the bounds keeps the listed indexes inside them. -/
theorem memory_within_write {m : Memory} {w h a : Nat} {v : Byte} (hm : m.Within w h) (ha : a < h * w * 3) :
    (m.write a v).Within w h := by
  intro c hc
  rcases memory_mem_write hc with hc | rfl
  · exact hm c hc
  · exact ha

/-! ## Painting -/

/-- The linear index is one-to-one on the pixels and channels of a raster (R55). -/
theorem channelIndex_inj {w x y c x' y' c' : Nat} (hx : x < w) (hx' : x' < w) (hc : c < 3) (hc' : c' < 3)
    (h : channelIndex w x y c = channelIndex w x' y' c') : x = x' ∧ y = y' ∧ c = c' := by
  simp only [channelIndex] at h
  have hp : y * w + x = y' * w + x' := by omega
  have hcc : c = c' := by omega
  have hy : y = y' := by
    have h1 : (y * w + x) / w = y := by
      rw [Nat.mul_comm, Nat.mul_add_div (by omega), Nat.div_eq_of_lt hx, Nat.add_zero]
    have h2 : (y' * w + x') / w = y' := by
      rw [Nat.mul_comm, Nat.mul_add_div (by omega), Nat.div_eq_of_lt hx', Nat.add_zero]
    rw [← h1, ← h2, hp]
  subst hy
  exact ⟨by omega, rfl, hcc⟩

/-- The linear index of an in-bounds channel lies inside the raster (R55). -/
theorem channelIndex_lt {w h x y c : Nat} (hx : x < w) (hy : y < h) (hc : c < 3) :
    channelIndex w x y c < h * w * 3 := by
  have : y * w + w ≤ h * w := by
    calc y * w + w = (y + 1) * w := by ring
      _ ≤ h * w := Nat.mul_le_mul_right _ hy
  simp only [channelIndex]
  omega

/-- What a paint can do (R133): the three channels of the pixel are the colour, every other index is as before. -/
theorem memory_read_paint {m : Memory} (hm : m.wf) (w x y : Nat) (color : Color) (a : Nat) :
    (m.paint w x y color).read a =
      if a = channelIndex w x y 0 then color.c0
      else if a = channelIndex w x y 1 then color.c1
      else if a = channelIndex w x y 2 then color.c2
      else m.read a := by
  have h0 := memory_wf_write hm (channelIndex w x y 0) color.c0
  have h1 := memory_wf_write h0 (channelIndex w x y 1) color.c1
  have h01 : channelIndex w x y 0 ≠ channelIndex w x y 1 := by simp [channelIndex]
  have h02 : channelIndex w x y 0 ≠ channelIndex w x y 2 := by simp [channelIndex]
  have h12 : channelIndex w x y 1 ≠ channelIndex w x y 2 := by simp [channelIndex]
  rw [Memory.paint, memory_read_write h1, memory_read_write h0, memory_read_write hm]
  by_cases e0 : a = channelIndex w x y 0
  · simp [e0, h01, h02]
  · by_cases e1 : a = channelIndex w x y 1
    · simp [e1, h01.symm, h12]
    · simp [e0, e1]

theorem memory_wf_paint {m : Memory} (hm : m.wf) (w x y : Nat) (color : Color) : (m.paint w x y color).wf :=
  memory_wf_write (memory_wf_write (memory_wf_write hm _ _) _ _) _ _

theorem memory_within_paint {m : Memory} {w h x y : Nat} (hm : m.Within w h) (hx : x < w) (hy : y < h)
    (color : Color) : (m.paint w x y color).Within w h :=
  memory_within_write
    (memory_within_write (memory_within_write hm (channelIndex_lt hx hy (by omega)))
      (channelIndex_lt hx hy (by omega)))
    (channelIndex_lt hx hy (by omega))

/-! ## Decaying and clearing -/

/-- An unlisted channel stays unlisted (R144: decay(0) = 0). -/
@[simp] theorem decayByte_unlisted (d : BitVec 17) : decayByte d Memory.unlisted = Memory.unlisted := by
  simp [decayByte, Memory.unlisted]

/-- For a legal DECAY_NUM the floor of R139 needs no clamp: it is the channel's value exactly. -/
theorem decayByte_toNat {d : BitVec 17} (hd : d.toNat ≤ 65536) (c : Byte) :
    (decayByte d c).toNat = c.toNat * d.toNat / 65536 := by
  have hc : c.toNat < 256 := c.isLt
  have h : c.toNat * d.toNat / 65536 ≤ c.toNat := by
    calc c.toNat * d.toNat / 65536 ≤ c.toNat * 65536 / 65536 := Nat.div_le_div_right (Nat.mul_le_mul_left _ hd)
      _ = c.toNat := Nat.mul_div_cancel _ (by decide)
  simp only [decayByte, BitVec.toNat_ofNat]
  exact Nat.mod_eq_of_lt (by omega)

theorem decayCell_eq_some {d : BitVec 17} {c c' : Host.Cell} (h : decayCell d c' = some c) :
    c'.1 = c.1 ∧ c.2 = decayByte d c'.2 ∧ c.2 ≠ Memory.unlisted := by
  unfold decayCell at h
  split at h
  · cases h
  · cases h
    exact ⟨rfl, rfl, by assumption⟩

theorem memory_mem_decay {m : Memory} {d : BitVec 17} {c : Host.Cell} (h : c ∈ m.decay d) :
    ∃ c' ∈ m, c'.1 = c.1 ∧ c.2 = decayByte d c'.2 ∧ c.2 ≠ Memory.unlisted := by
  obtain ⟨c', hc', h⟩ := List.mem_filterMap.1 h
  exact ⟨c', hc', decayCell_eq_some h⟩

theorem memory_decay_cons (c : Host.Cell) (m : Memory) (d : BitVec 17) :
    Memory.decay (c :: m) d =
      if decayByte d c.2 = Memory.unlisted then Memory.decay m d
      else (c.1, decayByte d c.2) :: Memory.decay m d := by
  by_cases h : decayByte d c.2 = Memory.unlisted
  · rw [if_pos h, Memory.decay, List.filterMap_cons_none (by rw [decayCell, if_pos h])]
    rfl
  · rw [if_neg h, Memory.decay, List.filterMap_cons_some (by rw [decayCell, if_neg h])]
    rfl

/-- What a decay can do (R139): every channel is decayed. -/
theorem memory_read_decay {m : Memory} (hm : m.wf) (d : BitVec 17) (a : Nat) :
    (m.decay d).read a = decayByte d (m.read a) := by
  obtain ⟨hs, -⟩ := hm
  induction m with
  | nil => exact (decayByte_unlisted d).symm
  | cons c m ih =>
    obtain ⟨hlt, hs⟩ := List.pairwise_cons.1 hs
    rw [memory_decay_cons, memory_read_cons]
    by_cases hca : c.1 = a
    · rw [if_pos hca]
      split
      · rename_i hz
        rw [hz]
        apply memory_read_of_not_mem
        intro e he
        obtain ⟨e', he', h1, -⟩ := memory_mem_decay he
        have := hlt e' he'
        omega
      · rw [memory_read_cons, if_pos hca]
    · rw [if_neg hca, ← ih hs]
      split
      · rfl
      · rw [memory_read_cons, if_neg hca]

theorem memory_wf_decay {m : Memory} (hm : m.wf) (d : BitVec 17) : (m.decay d).wf := by
  refine ⟨?_, fun c hc => ?_⟩
  · refine List.Pairwise.filterMap _ ?_ hm.1
    intro p q hpq p' hp q' hq
    have hp := (decayCell_eq_some hp).1
    have hq := (decayCell_eq_some hq).1
    omega
  · obtain ⟨-, -, -, -, h⟩ := memory_mem_decay hc
    exact h

theorem memory_within_decay {m : Memory} {w h : Nat} (hm : m.Within w h) (d : BitVec 17) :
    (m.decay d).Within w h := by
  intro c hc
  obtain ⟨c', hc', h1, -⟩ := memory_mem_decay hc
  exact h1 ▸ hm c' hc'

/-- A cleared raster reads as 0 everywhere (R143). -/
@[simp] theorem memory_read_clear (m : Memory) (a : Nat) : m.clear.read a = Memory.unlisted := rfl

theorem memory_wf_clear (m : Memory) : m.clear.wf := ⟨.nil, nofun⟩

theorem memory_wf_nil : Memory.wf [] := ⟨.nil, nofun⟩

end Sys2Proof.Machine
end

