-- ==== Sys2Proof/Laws/Painter.lean ====
section
/-! SUPPORT. The painter's operations: what one event, a list of events and a snapshot can do to a painter, and what
each painter transaction answers (spec/41_painter.md R130 to R143). -/

namespace Sys2Proof.Machine

/-! ## INGEST -/

/-- The bounds predicate as numbers (R132). -/
theorem inBounds_iff (p : Painter) (x y : BitVec 11) :
    p.inBounds x y = true ↔ x.toNat < p.width ∧ y.toNat < p.height := by
  simp [Painter.inBounds]

theorem ingestOne_inside {p : Painter} {ev : CDEvent} (h : p.inBounds ev.x ev.y = true) :
    p.ingestOne ev = p.paintEvent ev := if_pos h

theorem ingestOne_outside {p : Painter} {ev : CDEvent} (h : ¬ p.inBounds ev.x ev.y = true) :
    p.ingestOne ev = p := if_neg h

@[simp] theorem ingest_nil (p : Painter) : p.ingest [] = p := rfl

@[simp] theorem ingest_cons (p : Painter) (ev : CDEvent) (evs : List CDEvent) :
    p.ingest (ev :: evs) = (p.ingestOne ev).ingest evs := rfl

theorem ingest_append (p : Painter) (evs evs' : List CDEvent) :
    p.ingest (evs ++ evs') = (p.ingest evs).ingest evs' := by
  simp [Painter.ingest, List.foldl_append]

/-- An event writes nothing but the raster and the event count (R131). -/
theorem ingestOne_eq (p : Painter) (ev : CDEvent) :
    p.ingestOne ev = { p with raster := (p.ingestOne ev).raster, eventCount := (p.ingestOne ev).eventCount } := by
  unfold Painter.ingestOne
  split <;> rfl

/-- INGEST writes nothing but the raster and the event count (R130). -/
theorem ingest_eq (p : Painter) (evs : List CDEvent) :
    p.ingest evs = { p with raster := (p.ingest evs).raster, eventCount := (p.ingest evs).eventCount } := by
  induction evs generalizing p with
  | nil => rfl
  | cons ev evs ih =>
    rw [ingest_cons, ih]
    rw [ingestOne_eq p ev]

/-- INGEST keeps the canonical form of the raster. -/
theorem ingest_wf {p : Painter} (h : p.raster.wf) (evs : List CDEvent) : (p.ingest evs).raster.wf := by
  induction evs generalizing p with
  | nil => exact h
  | cons ev evs ih =>
    refine ih ?_
    unfold Painter.ingestOne
    split
    · exact memory_wf_paint h _ _ _ _
    · exact h

/-- INGEST always answers a next state, and which (R130). -/
theorem exec_ingest (evs : List CDEvent) (s : State) :
    exec (.ingest evs) s = .next (s.withAcc (s.acc.ingest evs)) := rfl

/-! ## SNAPSHOT -/

theorem timeBackwards_iff (p : Painter) (now : Ticks) :
    p.timeBackwards now = true ↔ now.toNat < p.lastSnapshotTime.toNat := by
  simp [Painter.timeBackwards]

theorem windowFull_iff (p : Painter) : p.windowFull = true ↔ p.fpsWindow.length = p.fpsCapacity := by
  simp [Painter.windowFull]

/-- What SNAPSHOT answers: the model fault, or the next state of R135. -/
theorem exec_snapshot_cases (now : Ticks) (s : State) :
    (now.toNat < s.acc.lastSnapshotTime.toNat ∧ exec (.snapshot now) s = .fault .timeBackwards) ∨
    (s.acc.lastSnapshotTime.toNat ≤ now.toNat ∧ exec (.snapshot now) s =
      .next ((s.withAcc (s.acc.snapshot now).1).respond (.snap (s.acc.snapshot now).2))) := by
  by_cases h : s.acc.timeBackwards now = true
  · exact .inl ⟨(timeBackwards_iff _ _).1 h, if_pos h⟩
  · exact .inr ⟨by have := mt (timeBackwards_iff _ _).2 h; omega, if_neg h⟩

/-- If SNAPSHOT answers a next state, it is the one of R135. -/
theorem exec_snapshot_next {now : Ticks} {s t : State} (h : exec (.snapshot now) s = .next t) :
    t = (s.withAcc (s.acc.snapshot now).1).respond (.snap (s.acc.snapshot now).2) := by
  rcases exec_snapshot_cases now s with ⟨-, h'⟩ | ⟨-, h'⟩
  · rw [h'] at h; cases h
  · rw [h'] at h; cases h; rfl

/-! ## RESET and the reserved codes -/

/-- RESET always answers a next state, and which (R143). -/
theorem exec_reset (s : State) : exec .reset s = .next (s.withAcc s.acc.reset) := rfl

/-- A reserved command code is refused (R81). -/
theorem exec_reserved (s : State) :
    exec .cmdRsv0 s = .refused .refuseCmd ∧ exec .cmdRsv6 s = .refused .refuseCmd ∧
      exec .cmdRsv7 s = .refused .refuseCmd := ⟨rfl, rfl, rfl⟩

end Sys2Proof.Machine
end

