-- ==== Sys2Proof/Laws/PerInstr.lean ====
section
/-! SUPPORT. Facts about every instruction as syntax, one lemma per constructor. -/

/-! ## The length of an instruction's frame (spec/30_encoding.md R70: every EVT2 word is exactly 32 bits) -/

namespace Sys2Proof.Laws.EncodedLength

/-- How many bytes the frame of an instruction has: four for a word, and for a command its code and its operand. -/
def frameBytes : Instr → Nat
  | .cdOff _ _ _ | .cdOn _ _ _ | .timeHigh _ => 4
  | .rsv2 _ | .rsv3 _ | .rsv4 _ | .rsv5 _ | .rsv6 _ | .rsv7 _ => 4
  | .rsv9 _ | .rsvA _ | .rsvB _ | .rsvC _ | .rsvD _ | .rsvE _ | .rsvF _ => 4
  | .decodeWord _ => 5
  | .decodeChunk bytes => 1 + bytes.length
  | .ingest events => 1 + 12 * events.length
  | .snapshot _ => 9
  | .reset | .cmdRsv0 | .cmdRsv6 | .cmdRsv7 => 1

/-- The encoder writes a frame of that length. -/
def Statement (i : Instr) : Prop := (encode i).bytes.length = frameBytes i

theorem cdOff (t : BitVec 6) (x y : BitVec 11) : Statement (.cdOff t x y) := rfl
theorem cdOn (t : BitVec 6) (x y : BitVec 11) : Statement (.cdOn t x y) := rfl
theorem rsv2 (p : BitVec 28) : Statement (.rsv2 p) := rfl
theorem rsv3 (p : BitVec 28) : Statement (.rsv3 p) := rfl
theorem rsv4 (p : BitVec 28) : Statement (.rsv4 p) := rfl
theorem rsv5 (p : BitVec 28) : Statement (.rsv5 p) := rfl
theorem rsv6 (p : BitVec 28) : Statement (.rsv6 p) := rfl
theorem rsv7 (p : BitVec 28) : Statement (.rsv7 p) := rfl
theorem timeHigh (h : BitVec 28) : Statement (.timeHigh h) := rfl
theorem rsv9 (p : BitVec 28) : Statement (.rsv9 p) := rfl
theorem rsvA (p : BitVec 28) : Statement (.rsvA p) := rfl
theorem rsvB (p : BitVec 28) : Statement (.rsvB p) := rfl
theorem rsvC (p : BitVec 28) : Statement (.rsvC p) := rfl
theorem rsvD (p : BitVec 28) : Statement (.rsvD p) := rfl
theorem rsvE (p : BitVec 28) : Statement (.rsvE p) := rfl
theorem rsvF (p : BitVec 28) : Statement (.rsvF p) := rfl
theorem decodeWord (w : Word) : Statement (.decodeWord w) := rfl

theorem decodeChunk (bytes : List Byte) : Statement (.decodeChunk bytes) := by
  simp [Statement, encode, commandFrame, frameBytes, Nat.add_comm]

/-- Twelve bytes an event (log 6). -/
theorem ingest (events : List CDEvent) : Statement (.ingest events) := by
  have h : (events.flatMap encodeEvent).length = 12 * events.length := by
    induction events with
    | nil => rfl
    | cons ev evs ih =>
      have h12 : (encodeEvent ev).length = 12 := rfl
      simp only [List.flatMap_cons, List.length_append, List.length_cons, ih, h12]
      omega
  simp [Statement, encode, commandFrame, frameBytes, h, Nat.add_comm]

theorem snapshot (now : Ticks) : Statement (.snapshot now) := rfl
theorem reset : Statement .reset := rfl
theorem cmdRsv0 : Statement .cmdRsv0 := rfl
theorem cmdRsv6 : Statement .cmdRsv6 := rfl
theorem cmdRsv7 : Statement .cmdRsv7 := rfl

end Sys2Proof.Laws.EncodedLength
end

