-- ==== Sys2Proof/Laws/Step.lean ====
section
/-! SUPPORT. What an instruction and a step can do, said once: every invariant is derived from these. -/

namespace Sys2Proof.Machine

/-- What an instruction can do when it answers a next state. -/
theorem exec_next_cases {i : Instr} {s t : State} (h : exec i s = .next t) :
    (∃ w, i = decodeEvt2 w ∧ t = s.applyWord (stepWord s.dec.timeHigh w)) ∨
    (∃ w, i = .decodeWord w ∧
      t = ((s.withDec (s.dec.decodeWord w).1).withOut (s.dec.decodeWord w).2.toList).respond
        (.word (s.dec.decodeWord w).2)) ∨
    (∃ bytes, i = .decodeChunk bytes ∧
      t = ((s.withDec (s.dec.decodeChunk bytes).1).withOut (s.dec.decodeChunk bytes).2).respond
        (.chunk (s.dec.decodeChunk bytes).2)) ∨
    (∃ evs, i = .ingest evs ∧ t = s.withAcc (s.acc.ingest evs)) ∨
    (∃ now, i = .snapshot now ∧ t = (s.withAcc (s.acc.snapshot now).1).respond (.snap (s.acc.snapshot now).2)) ∨
    (i = .reset ∧ t = s.withAcc s.acc.reset) := by
  have word : ∀ w, i = decodeEvt2 w →
      ∃ w, i = decodeEvt2 w ∧ t = s.applyWord (stepWord s.dec.timeHigh w) := by
    intro w hw
    refine ⟨w, hw, ?_⟩
    rw [hw, exec_word] at h
    cases h
    rfl
  cases i with
  | cdOff tl x y => exact .inl (word (encodeCd .off tl x y) (by simp [decodeEvt2, Polarity.bit]))
  | cdOn tl x y => exact .inl (word (encodeCd .on tl x y) (by simp [decodeEvt2, Polarity.bit]))
  | timeHigh p => exact .inl (word (encodeTh p) (by simp [decodeEvt2]))
  | rsv2 p => exact .inl (word (encodeRsv 0x2 p) (by simp [decodeEvt2]))
  | rsv3 p => exact .inl (word (encodeRsv 0x3 p) (by simp [decodeEvt2]))
  | rsv4 p => exact .inl (word (encodeRsv 0x4 p) (by simp [decodeEvt2]))
  | rsv5 p => exact .inl (word (encodeRsv 0x5 p) (by simp [decodeEvt2]))
  | rsv6 p => exact .inl (word (encodeRsv 0x6 p) (by simp [decodeEvt2]))
  | rsv7 p => exact .inl (word (encodeRsv 0x7 p) (by simp [decodeEvt2]))
  | rsv9 p => exact .inl (word (encodeRsv 0x9 p) (by simp [decodeEvt2]))
  | rsvA p => exact .inl (word (encodeRsv 0xA p) (by simp [decodeEvt2]))
  | rsvB p => exact .inl (word (encodeRsv 0xB p) (by simp [decodeEvt2]))
  | rsvC p => exact .inl (word (encodeRsv 0xC p) (by simp [decodeEvt2]))
  | rsvD p => exact .inl (word (encodeRsv 0xD p) (by simp [decodeEvt2]))
  | rsvE p => exact .inl (word (encodeRsv 0xE p) (by simp [decodeEvt2]))
  | rsvF p => exact .inl (word (encodeRsv 0xF p) (by simp [decodeEvt2]))
  | decodeWord w => rw [exec_decodeWord] at h; cases h; exact .inr (.inl ⟨w, rfl, rfl⟩)
  | decodeChunk bytes => rw [exec_decodeChunk] at h; cases h; exact .inr (.inr (.inl ⟨bytes, rfl, rfl⟩))
  | ingest evs => rw [exec_ingest] at h; cases h; exact .inr (.inr (.inr (.inl ⟨evs, rfl, rfl⟩)))
  | snapshot now => exact .inr (.inr (.inr (.inr (.inl ⟨now, rfl, exec_snapshot_next h⟩))))
  | reset => rw [exec_reset] at h; cases h; exact .inr (.inr (.inr (.inr (.inr ⟨rfl, rfl⟩))))
  | cmdRsv0 => rw [(exec_reserved s).1] at h; cases h
  | cmdRsv6 => rw [(exec_reserved s).2.1] at h; cases h
  | cmdRsv7 => rw [(exec_reserved s).2.2] at h; cases h

/-- What a step can do when it answers a next state: idle, or run the instruction of the first pending frame. -/
theorem step_next_cases {s t : State} (h : step s = .next t) :
    (s.mark = none ∧ s.input = [] ∧ t = s) ∨
    (∃ f rest i, s.mark = none ∧ s.input = f :: rest ∧ decode f = .ok i ∧ exec i (s.withInput rest) = .next t) := by
  unfold step fetch at h
  cases hm : s.mark with
  | some m => cases m <;> (simp only [hm, stoppedOutcome] at h; cases h)
  | none =>
    cases hi : s.input with
    | nil => simp only [hm, hi] at h; cases h; exact .inl ⟨rfl, rfl, rfl⟩
    | cons f rest =>
      cases hd : decode f with
      | error e => simp only [hm, hi, hd] at h; cases h
      | ok i => simp only [hm, hi, hd] at h; exact .inr ⟨f, rest, i, rfl, rfl, hd, h⟩

/-! ## Lists of transactions -/

@[simp] theorem execAll_nil (s : State) : execAll [] s = .next s := rfl

/-- If a list of transactions answers a next state, its first one does, and the rest go on from there. -/
theorem execAll_cons_next {i : Instr} {is : List Instr} {s u : State} (h : execAll (i :: is) s = .next u) :
    ∃ t, exec i s = .next t ∧ execAll is t = .next u := by
  rw [execAll] at h
  split at h
  · exact ⟨_, by assumption, h⟩
  · cases h
  · cases h

theorem execAll_cons_of_next {i : Instr} {is : List Instr} {s t : State} (h : exec i s = .next t) :
    execAll (i :: is) s = execAll is t := by
  rw [execAll, h]

end Sys2Proof.Machine
end

