-- ==== Sys2Proof/Laws/System.lean ====
section
/-! SUPPORT. What a transaction on a system of instances can do (spec/60_exceptions.md R178, R181). -/

namespace Sys2Proof.Machine

/-! ## The sticky mark -/

theorem unlessMarked_none {β : Type} {sys : System} (h : sys.mark = none) (o : SystemOutcome β) :
    sys.unlessMarked o = o := by
  simp [System.unlessMarked, h]

theorem unlessMarked_some {β : Type} {sys : System} {m : Mark} (h : sys.mark = some m) (o : SystemOutcome β) :
    sys.unlessMarked o = stoppedOutcome m := by
  simp [System.unlessMarked, h]

/-- If a guarded outcome is a next system, the mark was not set and the outcome was that one. -/
theorem unlessMarked_next {β : Type} {sys : System} {o : SystemOutcome β} {x : System × β}
    (h : sys.unlessMarked o = .next x) : sys.mark = none ∧ o = .next x := by
  cases hm : sys.mark with
  | none => exact ⟨rfl, (unlessMarked_none hm o).symm.trans h⟩
  | some m => rw [unlessMarked_some hm] at h; cases m <;> cases h

@[simp] theorem system_settle_next {β : Type} (sys after : System) (r : β) : sys.settle (.next (after, r)) = after := rfl

@[simp] theorem system_settle_fault {β : Type} (sys : System) (f : Fault) :
    sys.settle (.fault f : SystemOutcome β) = { sys with mark := some (.fault f) } := rfl

@[simp] theorem system_settle_refused {β : Type} (sys : System) (r : Refusal) :
    sys.settle (.refused r : SystemOutcome β) = { sys with mark := some (.refusal r) } := rfl

@[simp] theorem respondWith_next {β : Type} (record : β → Option Response) (sys : System) (r : β) :
    respondWith record (.next (sys, r)) = .next (sys, record r) := rfl

@[simp] theorem respondWith_stopped {β : Type} (record : β → Option Response) (m : Mark) :
    respondWith record (stoppedOutcome m) = stoppedOutcome m := by
  cases m <;> rfl

/-- If a transaction with its response answers a next system, so does the transaction. -/
theorem respondWith_eq_next {β : Type} {record : β → Option Response} {o : SystemOutcome β} {sys' : System}
    {r : Option Response} (h : respondWith record o = .next (sys', r)) : ∃ q, o = .next (sys', q) ∧ r = record q := by
  rcases o with ⟨sys, q⟩ | f | e
  · cases h; exact ⟨q, rfl, rfl⟩
  · cases h
  · cases h

/-! ## One instance -/

/-- What a transaction on one decoder can do when it answers a next system. -/
theorem onDecoder_next {β : Type} {sys sys' : System} {k : Nat} {f : Decoder → Decoder × β} {r : β}
    (h : sys.onDecoder k f = .next (sys', r)) :
    sys.mark = none ∧ ∃ d, sys.decoders[k]? = some d ∧ r = (f d).2 ∧
      sys' = { sys with decoders := sys.decoders.set k (f d).1 } := by
  obtain ⟨hm, h⟩ := unlessMarked_next h
  refine ⟨hm, ?_⟩
  split at h
  · cases h
  · cases h; exact ⟨_, by assumption, rfl, rfl⟩

/-- What a transaction on one painter can do when it answers a next system. -/
theorem onPainter_next {β : Type} {sys sys' : System} {k : Nat} {f : Painter → Painter × β} {r : β}
    (h : sys.onPainter k f = .next (sys', r)) :
    sys.mark = none ∧ ∃ p, sys.painters[k]? = some p ∧ r = (f p).2 ∧
      sys' = { sys with painters := sys.painters.set k (f p).1 } := by
  obtain ⟨hm, h⟩ := unlessMarked_next h
  refine ⟨hm, ?_⟩
  split at h
  · cases h
  · cases h; exact ⟨_, by assumption, rfl, rfl⟩

/-- A transaction on a decoder that exists, of an unmarked system, completes. -/
theorem onDecoder_eq {β : Type} {sys : System} {k : Nat} {d : Decoder} (hm : sys.mark = none)
    (hd : sys.decoders[k]? = some d) (f : Decoder → Decoder × β) :
    sys.onDecoder k f = .next ({ sys with decoders := sys.decoders.set k (f d).1 }, (f d).2) := by
  simp [System.onDecoder, unlessMarked_none hm, hd]

/-- A transaction on a painter that exists, of an unmarked system, completes. -/
theorem onPainter_eq {β : Type} {sys : System} {k : Nat} {p : Painter} (hm : sys.mark = none)
    (hp : sys.painters[k]? = some p) (f : Painter → Painter × β) :
    sys.onPainter k f = .next ({ sys with painters := sys.painters.set k (f p).1 }, (f p).2) := by
  simp [System.onPainter, unlessMarked_none hm, hp]

/-- SNAPSHOT on a painter of an unmarked system: the model fault, or the painter's own SNAPSHOT (R135, R136). -/
theorem system_snapshot_eq {sys : System} {k : Nat} {p : Painter} (hm : sys.mark = none)
    (hp : sys.painters[k]? = some p) (now : Ticks) :
    sys.snapshot k now = if p.timeBackwards now then .fault .timeBackwards
      else .next ({ sys with painters := sys.painters.set k (p.snapshot now).1 }, (p.snapshot now).2) := by
  simp [System.snapshot, unlessMarked_none hm, hp, onPainter_eq hm hp]

/-- If SNAPSHOT answers a next system, the painter's own transaction does. -/
theorem system_snapshot_next {sys sys' : System} {k : Nat} {now : Ticks} {r : SnapResp}
    (h : sys.snapshot k now = .next (sys', r)) : sys.onPainter k (·.snapshot now) = .next (sys', r) := by
  obtain ⟨-, h⟩ := unlessMarked_next h
  split at h
  · cases h
  · exact h

/-! ## Any transaction -/

/-- A marked system answers the same stop to every transaction (R178). -/
theorem system_exec_marked {sys : System} {m : Mark} (h : sys.mark = some m) (c : SystemCmd) :
    sys.exec c = stoppedOutcome m := by
  cases c <;> simp [System.exec, System.addDecoder, System.addPainter, System.decodeWord, System.decodeChunk,
    System.ingest, System.snapshot, System.reset, System.reservedCommand, System.onDecoder, System.onPainter,
    unlessMarked_some h]

end Sys2Proof.Machine
end

