-- ==== Sys2Proof/Tests/Slice0.lean ====
section
/-! SUPPORT. The model's own tests: words written out from spec/30_encoding.md and decoded, one-step tests with the
values of spec/95_test_vectors.md, ill-formed terms that the checks refuse, and for each statement with hypotheses a
witness that meets them together. -/

open Sys2Proof Sys2Proof.Machine

namespace Sys2Proof.Tests

/-! ## Helpers -/

/-- The reset state with a given `time_high`, carry and policy. -/
def withDecoder (th : BitVec 28) (carry : List Byte) (policy : CarryPolicy) : State :=
  State.reset.withDec ⟨th, carry, policy⟩

/-- The reset state with pixel (1, 1) at the ON colour and one event counted. -/
def painted : State :=
  State.reset.withAcc { State.reset.acc with raster := [(15, 255), (16, 128), (17, 7)], eventCount := 1 }

/-- A field of the next state, if there is one. -/
def look {β : Type} (o : Host.Outcome State Fault Refusal) (f : State → β) : Option β :=
  match o with
  | .next t => some (f t)
  | .fault _ => none
  | .refused _ => none

/-- The kind of an outcome. -/
def kindOf (o : Host.Outcome State Fault Refusal) : Option (Fault ⊕ Refusal) :=
  match o with
  | .next _ => none
  | .fault f => some (.inl f)
  | .refused r => some (.inr r)

/-- The event E of spec/95_test_vectors.md 2.3. -/
def eventE : CDEvent := ⟨1, 1, .on, 65⟩

/-- An event with the values of spec/95_test_vectors.md 2.4. -/
def eventAt (x y : BitVec 11) (pol : Polarity) : CDEvent := ⟨x, y, pol, 0⟩

/-! ## Decoding: words written out bit by bit from R72, R73, R74 -/

theorem test_decode_cdOff :
    decodeTableWord 32 0b0000_101001_00001100100_00011001000 = some (.cdOff 41 100 200) := by decide

theorem test_decode_cdOn :
    decodeTableWord 32 0b0001_000101_00001100100_00011001000 = some (.cdOn 5 100 200) := by decide

theorem test_decode_timeHigh :
    decodeTableWord 32 0b1000_0000101010111100110111101111 = some (.timeHigh 0x0ABCDEF) := by decide

theorem test_decode_reserved_low :
    [0x2, 0x3, 0x4, 0x5, 0x6, 0x7].map (fun t => decodeTableWord 32 (t * 2 ^ 28 + 0xFFFFFFF)) =
      [some (.rsv2 0xFFFFFFF), some (.rsv3 0xFFFFFFF), some (.rsv4 0xFFFFFFF), some (.rsv5 0xFFFFFFF),
       some (.rsv6 0xFFFFFFF), some (.rsv7 0xFFFFFFF)] := by decide

theorem test_decode_reserved_high :
    [0x9, 0xA, 0xB, 0xC, 0xD, 0xE, 0xF].map (fun t => decodeTableWord 32 (t * 2 ^ 28 + 1)) =
      [some (.rsv9 1), some (.rsvA 1), some (.rsvB 1), some (.rsvC 1), some (.rsvD 1), some (.rsvE 1),
       some (.rsvF 1)] := by decide

theorem test_decode_commands :
    [0b000, 0b001, 0b010, 0b011, 0b100, 0b101, 0b110, 0b111].map (decodeTableWord 8) =
      [some .cmdRsv0, some (.decodeWord 0), some (.decodeChunk []), some (.ingest []), some (.snapshot 0),
       some .reset, some .cmdRsv6, some .cmdRsv7] := by decide

/-- 95_test_vectors.md 2.2: a byte-swapped word is not an event. -/
theorem test_byte_order :
    decode ⟨.stream, [0x11, 0x43, 0x20, 0xC8]⟩ = .ok (.rsvC 0x8204311) ∧
    decode ⟨.stream, [0x80, 0xAB, 0xCD, 0xEF]⟩ = .ok (.rsvE 0xFCDAB80) := by decide

theorem test_decode_command_operands :
    decode ⟨.command, [0x01, 0xC8, 0x20, 0x43, 0x11]⟩ = .ok (.decodeWord 0x114320C8) ∧
    decode ⟨.command, [0x04, 0xF4, 0x01, 0, 0, 0, 0, 0, 0x80]⟩ = .ok (.snapshot 0x80000000000001F4) ∧
    decode ⟨.command, [0x03, 0x01, 0x08, 0x40, 0x00, 65, 0, 0, 0, 0, 0, 0, 0]⟩ = .ok (.ingest [eventE]) := by decide

/-- Every way a frame is rejected (log 16). -/
theorem test_decode_rejects :
    decode ⟨.stream, [1, 2, 3]⟩ = .error .notOneWord ∧ decode ⟨.command, []⟩ = .error .noCommandCode ∧
    decode ⟨.command, [0x01, 0]⟩ = .error .operandLength ∧ decode ⟨.command, [0x03, 0]⟩ = .error .partialEvent ∧
    decode ⟨.command, [0x03, 0, 0, 0x80, 0, 0, 0, 0, 0, 0, 0, 0, 0]⟩ = .error .eventReservedBits := by decide

/-! ## Well-formedness: each check refuses an ill-formed term -/

theorem test_wf_event_timestamp :
    ¬ (Instr.ingest [⟨0, 0, .on, 0x400000000⟩]).WellFormed ∧ (Instr.ingest [⟨0, 0, .on, 0x3FFFFFFFF⟩]).WellFormed := by
  decide

/-- Each legal value of R5's table, broken one at a time. -/
theorem test_cfg_each_check :
    CfgLegal Cfg.atReset ∧
    [{ Cfg.atReset with width := 0 }, { Cfg.atReset with height := 0 }, { Cfg.atReset with decayNum := 0 },
      { Cfg.atReset with decayNum := 65537 }, { Cfg.atReset with decayFrac := 15 },
      { Cfg.atReset with fpsWindow := 0 }, { Cfg.atReset with eps := .ratio 0 1 },
      { Cfg.atReset with eps := .ratio (-1) 1 }, { Cfg.atReset with eps := .ratio 1 0 },
      { Cfg.atReset with tickHz := 0 }, { Cfg.atReset with onColor := ⟨256, 0, 0⟩ },
      { Cfg.atReset with offColor := ⟨0, 0, 256⟩ }, { Cfg.atReset with offColor := ⟨255, 128, 7⟩ },
      { Cfg.atReset with chanBits := 7 }, { Cfg.atReset with cntBits := 32 }, { Cfg.atReset with timeBits := 32 },
      { Cfg.atReset with tsBits := 34 }].all (fun cfg => !decide (CfgLegal cfg)) = true := by decide

/-- R5: EPS may be any real above 0, a named one among them. -/
theorem test_cfg_named_eps : CfgLegal { Cfg.atReset with eps := .real 0 } := by decide

/-- An assembly error for each operand out of range (R82). -/
theorem test_assembler_rejects :
    assembleLine (.cdon 2048 0 0) = none ∧ assembleLine (.cdon 0 2048 0) = none ∧ assembleLine (.cdoff 0 0 64) = none ∧
    assembleLine (.th 0x10000000) = none ∧ assembleLine (.rsv 8 0) = none ∧ assembleLine (.rsv 0xA 0x10000000) = none ∧
    assembleLine (.word 0x100000000) = none ∧ assembleLine (.byte [256]) = none ∧
    assembleLine (.ev .on 0 0 0x400000000) = none := by decide

/-- 95_test_vectors.md P1 and P5: listings and their bytes. -/
theorem test_assembler_listing :
    assemble [.th 1, .cdon 1 1 2, .cdoff 2 0 3, .rsv 0xA 0x1234567] =
      some [0x01, 0, 0, 0x80, 0x01, 0x08, 0x80, 0x10, 0x00, 0x10, 0xC0, 0x00, 0x67, 0x45, 0x23, 0xA1] ∧
    assemble [.ev .on 3 2 1000] = some [0x0F, 0, 0, 0x80, 0x02, 0x18, 0, 0x1A] := by decide

theorem test_assembler_text :
    AsmLine.text (.word 0x8000000F) = ".word 0x8000000F" := by decide

/-! ## EVT2 words (95_test_vectors.md 2.1) -/

theorem test_cdOff :
    look (exec (.cdOff 41 100 200) (withDecoder 0x0ABCDEF [] .carry)) (·.out) =
      some [⟨100, 200, .off, 0x2AF37BE9⟩] := by decide

theorem test_cdOff_zero_word :
    look (exec (decodeEvt2 0x00000000) (withDecoder 0x0ABCDEF [] .carry)) (·.out) =
      some [⟨0, 0, .off, 0x2AF37BC0⟩] := by decide

theorem test_cdOn :
    look (exec (decodeEvt2 0x12345678) (withDecoder 0x0ABCDEF [] .carry)) (·.out) =
      some [⟨1674, 1656, .on, 0x2AF37BC8⟩] := by decide

theorem test_cdOn_largest_timestamp :
    look (exec (.cdOn 63 2047 2047) (withDecoder 0x0FFFFFFF [] .carry)) (·.out) =
      some [⟨2047, 2047, .on, 17179869183⟩] := by decide

theorem test_timeHigh_lowers :
    look (exec (decodeEvt2 0x80000000) (withDecoder 0x0ABCDEF [] .carry)) (fun t => (t.dec.timeHigh, t.out)) =
      some (0, []) := by decide

theorem test_timeHigh_largest :
    look (exec (decodeEvt2 0x8FFFFFFF) (withDecoder 0x0ABCDEF [] .carry)) (·.dec.timeHigh) = some 0xFFFFFFF := by decide

/-- Each reserved tag leaves the state as it is, whatever its payload. -/
theorem test_reserved_words :
    [0x2FFFFFFF, 0x30000000, 0x4ABCDEF0, 0x5FFFFFFF, 0x60000001, 0x7FFFFFFF, 0x9ABCDEF0, 0xA1234567, 0xB0000000,
      0xC8204311, 0xDEADBEEF, 0xEFCDAB80, 0xFFFFFFFF].all (fun w =>
        decide (look (exec (decodeEvt2 w) (withDecoder 5 [1] .carry)) id = some (withDecoder 5 [1] .carry))) = true := by
  decide

/-! ## DECODE_WORD and DECODE_CHUNK (95_test_vectors.md 2.3) -/

theorem test_decodeWord :
    look (exec (.decodeWord 0x10400801) (withDecoder 1 [1, 8] .carry)) (fun t => (t.responses, t.dec.carry)) =
      some ([.word (some eventE)], [1, 8]) := by decide

theorem test_decodeWord_timeHigh :
    look (exec (.decodeWord 0x80000002) (withDecoder 1 [1, 8] .carry)) (fun t => (t.responses, t.dec)) =
      some ([.word none], ⟨2, [1, 8], .carry⟩) := by decide

theorem test_decodeChunk_carry :
    look (exec (.decodeChunk [0x40, 0x10, 0x02]) (withDecoder 1 [0x01, 0x08] .carry))
      (fun t => (t.responses, t.dec.carry)) = some ([.chunk [eventE]], [0x02]) := by decide

theorem test_decodeChunk_drop :
    look (exec (.decodeChunk [0x01, 0x08, 0x40, 0x10, 0x02]) (withDecoder 1 [] .drop))
      (fun t => (t.responses, t.dec.carry)) = some ([.chunk [eventE]], []) := by decide

/-! ## INGEST, SNAPSHOT, RESET (95_test_vectors.md 2.4 to 2.7) -/

theorem test_ingest_last_event_wins :
    look (exec (.ingest [eventAt 0 3 .off, eventAt 4 0 .on, eventAt 0 3 .on]) State.reset)
      (fun t => (t.acc.raster, t.acc.eventCount)) = some ([(36, 255), (37, 128), (38, 7)], 2) := by decide

theorem test_ingest_out_of_bounds :
    look (exec (.ingest [eventAt 4 0 .on, eventAt 0 4 .off, eventAt 2047 2047 .on]) State.reset) id =
      some State.reset := by decide

/-- The worked example of R135: the internal raster halves, the counters move, and the window takes the elapsed
ticks. -/
theorem test_snapshot_state :
    look (exec (.snapshot 100) painted)
      (fun t => (t.acc.raster, t.acc.frameCount, t.acc.eventCount, t.acc.fpsWindow, t.acc.lastSnapshotTime)) =
      some ([(15, 127), (16, 64), (17, 3)], 1, 0, [100], 100) := by decide

/-- What the response of that snapshot carries, its rate aside, is taken before the decay and after the increment. -/
theorem test_snapshot_response :
    (painted.acc.snapshot 100).2.raster = [(15, 255), (16, 128), (17, 7)] ∧ (painted.acc.snapshot 100).2.width = 4 ∧
    (painted.acc.snapshot 100).2.frameCount = 1 ∧ (painted.acc.snapshot 100).2.eventCount = 1 ∧
    look (exec (.snapshot 100) painted) (·.responses.length) = some 1 := by decide

/-- 95_test_vectors.md 2.5: decay at four rates. -/
theorem test_decay_table :
    [0, 1, 2, 3, 7, 128, 255].map (decayByte 65535) = [0, 0, 1, 2, 6, 127, 254] ∧
    [0, 1, 2, 3, 7, 128, 255].map (decayByte 58982) = [0, 0, 1, 2, 6, 115, 229] ∧
    [0, 1, 2, 3, 7, 128, 255].map (decayByte 49152) = [0, 0, 1, 2, 5, 96, 191] ∧
    [0, 1, 2, 3, 7, 128, 255].map (decayByte 1) = [0, 0, 0, 0, 0, 0, 0] := by decide

/-- 95_test_vectors.md 2.6: the third snapshot evicts the oldest entry. -/
theorem test_window_evicts_oldest :
    ({ State.reset.acc with fpsWindow := [100, 150], lastSnapshotTime := 250 }.sample 450).fpsWindow = [150, 200] := by
  decide

/-- 95_test_vectors.md 2.6: a `now` that runs backwards is the model fault. -/
theorem test_snapshot_backwards :
    kindOf (exec (.snapshot 449) (State.reset.withAcc { State.reset.acc with lastSnapshotTime := 450 })) =
      some (.inl .timeBackwards) := by decide

/-- 95_test_vectors.md 2.7. -/
theorem test_reset :
    let s := (withDecoder 7 [] .carry).withAcc { painted.acc with
      frameCount := 3, eventCount := 5, fpsWindow := [150, 200], lastSnapshotTime := 450 }
    look (exec .reset s) (fun t => (t.acc.raster, t.acc.eventCount)) = some ([], 0) ∧
    look (exec .reset s) (fun t => (t.acc.frameCount, t.acc.fpsWindow)) = some (3, [150, 200]) ∧
    look (exec .reset s) (fun t => (t.acc.lastSnapshotTime, t.dec.timeHigh)) = some (450, 7) := by decide

/-- 95_test_vectors.md 2.8. -/
theorem test_reserved_commands :
    kindOf (exec .cmdRsv0 State.reset) = some (.inr .refuseCmd) ∧
    kindOf (exec .cmdRsv6 State.reset) = some (.inr .refuseCmd) ∧
    kindOf (exec .cmdRsv7 State.reset) = some (.inr .refuseCmd) := by decide

/-! ## Steps from reset -/

/-- A word and a command placed as the first instruction after reset are run by the next step. -/
theorem test_step_runs_placed :
    look (step (State.reset.withFetchWord 32 0x114320C8)) (fun t => (t.out, t.input)) =
      some ([⟨100, 200, .on, 5⟩], []) ∧
    look (step (State.reset.withFetchWord 8 0b001)) (·.responses) = some [.word (some ⟨0, 0, .off, 0⟩)] ∧
    look (step (State.reset.withFetchWord 8 0b100)) (·.acc.frameCount) = some 1 ∧
    kindOf (step (State.reset.withFetchWord 8 0b110)) = some (.inr .refuseCmd) := by decide

theorem test_step_idles : look (step State.reset) id = some State.reset := by decide

theorem test_memory_write_of_zero_removes : Memory.write [(1, 2), (3, 4)] 3 0 = [(1, 2)] := by decide

/-! ## Witnesses: a state and operands that meet the hypotheses of each statement together -/

theorem test_witness_CommandCodeSelectsTransaction :
    decode ⟨.command, [0xFD]⟩ = .ok .reset ∧ decode ⟨.command, [0x00, 1]⟩ = .ok .cmdRsv0 ∧
    decode ⟨.command, [0x01, 0, 0, 0, 0]⟩ = .ok (.decodeWord 0) ∧ decode ⟨.command, [0x02]⟩ = .ok (.decodeChunk []) ∧
    decode ⟨.command, [0x03]⟩ = .ok (.ingest []) ∧ decode ⟨.command, [0x04, 0, 0, 0, 0, 0, 0, 0, 0]⟩ = .ok (.snapshot 0) ∧
    decode ⟨.command, [0x06]⟩ = .ok .cmdRsv6 ∧ decode ⟨.command, [0xFF]⟩ = .ok .cmdRsv7 := by decide

theorem test_witness_StepRunsTheDecodedInstruction :
    ∃ (s : State) (f : Frame) (rest : List Frame) (i : Instr),
      s.mark = none ∧ s.input = f :: rest ∧ decode f = .ok i :=
  ⟨State.reset.issueFirst (encode (.cdOn 1 1 1)), _, _, .cdOn 1 1 1, rfl, rfl, by decide⟩

theorem test_witness_PlacedTableWordIsRun :
    State.reset.mark = none ∧ decodeTableWord 32 0x10400801 = some (.cdOn 1 1 1) := by decide

/-- An unmarked state: the premise of `CdWordsEmitTheirEvent`, `TimeHighWordLoadsTheRegister`, `ReservedWordsDoNothing`,
`DecodeWordIsTheWordAndAResponse`, `ChunkReturnsItsCdEventsInOrder`, `DecoderNeverFails` and the second clause of
`ResetIsNotConstruction`. -/
theorem test_witness_unmarked : State.reset.mark = none := rfl

theorem test_witness_IdleStepsChangeNothing : State.reset.mark = none ∧ State.reset.input = [] := ⟨rfl, rfl⟩

theorem test_witness_MalformedFrameIsRefused :
    ∃ (s : State) (f : Frame) (rest : List Frame) (e : DecodeError),
      s.mark = none ∧ s.input = f :: rest ∧ decode f = .error e :=
  ⟨State.reset.issueFirst ⟨.stream, [1]⟩, _, _, .notOneWord, rfl, rfl, rfl⟩

/-- One witness for each clause: a fault, a refusal, a marked state, a next state. -/
theorem test_witness_MarkIsStickyAndAlone :
    (State.reset.mark = none ∧
      exec (.snapshot 0) (State.reset.withAcc { State.reset.acc with lastSnapshotTime := 1 }) = .fault .timeBackwards) ∧
    exec .cmdRsv7 State.reset = .refused .refuseCmd ∧
    (State.reset.setMark (.fault .timeBackwards)).mark = some (.fault .timeBackwards) ∧
    ∃ t, exec .reset State.reset = .next t := ⟨⟨rfl, rfl⟩, rfl, rfl, _, rfl⟩

theorem test_witness_ReservedCommandsAreRefused :
    State.reset.mark = none ∧ (Instr.cmdRsv6 = .cmdRsv0 ∨ Instr.cmdRsv6 = .cmdRsv6 ∨ Instr.cmdRsv6 = .cmdRsv7) := by
  decide

theorem test_witness_ConstructionGivesResetValues :
    CfgLegal { Cfg.atReset with width := 1, height := 1, decayNum := 65536, fpsWindow := 1, tickHz := 1 } := by decide

theorem test_witness_IllegalConfigurationIsRefused :
    65536 < ({ Cfg.atReset with decayNum := 65537 }).decayNum ∧ ({ Cfg.atReset with width := 0 }).width < 1 ∧
    epsValue (.ratio 0 1) ≤ 0 := ⟨by decide, by decide, by simp [epsValue]⟩

theorem test_witness_ConfigurationRegistersAreReadOnly :
    State.reset.mark = none ∧ ∃ t, exec (.ingest [eventAt 3 3 .on]) State.reset = .next t := ⟨rfl, _, rfl⟩

theorem test_witness_DecodeChunkUnderCarry :
    (withDecoder 1 [1, 8, 0x40] .carry).mark = none ∧
    (withDecoder 1 [1, 8, 0x40] .carry).dec.carryPolicy = .carry := ⟨rfl, rfl⟩

theorem test_witness_DecodeChunkUnderDrop :
    (withDecoder 1 [] .drop).mark = none ∧ (withDecoder 1 [] .drop).dec.carryPolicy = .drop := ⟨rfl, rfl⟩

theorem test_witness_CdTimestampsFollowTheLatestTimeHigh :
    State.reset.mark = none ∧ State.reset.dec.carry = [] := ⟨rfl, rfl⟩

theorem test_witness_CdBeforeAnyTimeHighUsesZero :
    ∀ w ∈ [0x114320C8, 0x9ABCDEF0, (0x7FFFFFFF : Word)], wordTag w ≠ 0x8#4 := by simp [wordTag]

theorem test_witness_TimeHighPersistsAcrossTransactions :
    ∃ (between : List Instr) (s t : State), s.mark = none ∧ s.dec.carry = [] ∧
      (∀ i ∈ between, forPainter i = true ∨ (∃ w, i = .decodeWord w ∧ wordTag w ≠ 0x8#4) ∨
        ∃ ws : List Word, i = .decodeChunk (ws.flatMap bytesOfWord) ∧ ∀ w ∈ ws, wordTag w ≠ 0x8#4) ∧
      execAll (.decodeWord (encodeTh 3) :: between) s = .next t := by
  refine ⟨[.reset, .decodeWord 0x9ABCDEF0, .decodeChunk ([0x10400801].flatMap bytesOfWord)], State.reset, _, rfl, rfl,
    ?_, rfl⟩
  intro i hi
  simp only [List.mem_cons, List.not_mem_nil, or_false] at hi
  rcases hi with rfl | rfl | rfl
  · exact .inl rfl
  · exact .inr (.inl ⟨0x9ABCDEF0, rfl, by simp [wordTag]⟩)
  · exact .inr (.inr ⟨[0x10400801], rfl, by simp [wordTag]⟩)

theorem test_witness_TrailingBytesDecodeNothing :
    State.reset.mark = none ∧ State.reset.dec.carry = [] ∧ ([0xEE, 0xEE, 0xEE] : List Byte).length ≤ 3 := by decide

/-- Both policies, with cuts that differ. -/
theorem test_witness_ChunkingDoesNotMatter :
    (∃ (s : State) (cs1 cs2 : List (List Byte)), s.mark = none ∧ s.dec.Inv ∧ cs1.flatten = cs2.flatten ∧ cs1 ≠ cs2 ∧
      s.dec.carryPolicy = .carry) ∧
    (∃ (s : State) (cs1 cs2 : List (List Byte)), s.mark = none ∧ s.dec.Inv ∧ cs1.flatten = cs2.flatten ∧ cs1 ≠ cs2 ∧
      s.dec.carryPolicy = .drop ∧ (∀ c ∈ cs1.dropLast, c.length % 4 = 0) ∧ ∀ c ∈ cs2.dropLast, c.length % 4 = 0) :=
  ⟨⟨withDecoder 1 [1, 8, 0x40] .carry, [[0x10], [1]], [[0x10, 1]], rfl, ⟨by decide, nofun⟩, rfl, by decide, rfl⟩,
   ⟨withDecoder 1 [] .drop, [[1, 8, 0x40, 0x10], [2]], [[1, 8, 0x40, 0x10, 2]], rfl, ⟨by decide, fun _ => rfl⟩, rfl,
     by decide, rfl, by decide, by decide⟩⟩

theorem test_witness_SubBlocksShareNoState :
    State.reset.mark = none ∧ painted.mark = none ∧ forDecoder (.cdOn 1 1 1) = true ∧ State.reset.dec = painted.dec ∧
    forPainter (.snapshot 0) = true ∧ ((withDecoder 1 [] .drop).withAcc painted.acc).mark = none ∧
    painted.acc = ((withDecoder 1 [] .drop).withAcc painted.acc).acc ∧
    ∃ s', exec (.snapshot 0) painted = .next s' := ⟨rfl, rfl, rfl, rfl, rfl, rfl, rfl, _, rfl⟩

/-- Clauses: a pixel on the last column and row, and an index that no in-bounds event writes. -/
theorem test_witness_IngestPaintsInListOrder :
    State.reset.mark = none ∧ State.reset.acc.raster.wf ∧ 3 < State.reset.acc.width ∧ 3 < State.reset.acc.height ∧
    ∀ ev ∈ [eventAt 3 3 .on, eventAt 4 0 .off], State.reset.acc.inBounds ev.x ev.y = true →
      ∀ c < 3, 44 ≠ channelIndex State.reset.acc.width ev.x.toNat ev.y.toNat c := by decide

theorem test_witness_PaintWritesExactlyOnePixel :
    painted.mark = none ∧ painted.acc.raster.wf ∧ (eventAt 3 3 .on).x.toNat < painted.acc.width ∧
    (eventAt 3 3 .on).y.toNat < painted.acc.height := by decide

/-- Both clauses at their boundary. -/
theorem test_witness_OutOfBoundsEventChangesNothing :
    State.reset.mark = none ∧ State.reset.acc.width ≤ (eventAt 4 0 .on).x.toNat ∧ State.reset.acc.height ≤ (eventAt 0 4 .on).y.toNat := by decide

theorem test_witness_TimestampsDoNotPaint :
    State.reset.mark = none ∧ [eventAt 1 1 .on].map eventKey = [(⟨1, 1, .on, 0x3FFFFFFFF⟩ : CDEvent)].map eventKey := by decide

theorem test_witness_SnapshotSamplesCopiesDecaysAndCounts :
    painted.mark = none ∧ painted.acc.lastSnapshotTime.toNat ≤ (0 : Ticks).toNat ∧ painted.acc.raster.wf ∧
    painted.acc.decayNum.toNat ≤ 65536 := by decide

/-- Both clauses at their boundary. -/
theorem test_witness_BackwardsTimeFaults :
    (449 : Ticks).toNat < ({ State.reset.acc with lastSnapshotTime := 450 }).lastSnapshotTime.toNat ∧
    State.reset.mark = none ∧
    ({ State.reset.acc with lastSnapshotTime := 450 }).lastSnapshotTime.toNat ≤ (450 : Ticks).toNat := by decide

theorem test_witness_ReturnedCopyNeverChanges :
    painted.mark = none ∧
    ∃ t u, exec (.snapshot 100) painted = .next t ∧ execAll [.reset, .snapshot 100] t = .next u :=
  ⟨rfl, _, _, rfl, rfl⟩

theorem test_witness_WindowHoldsTheLastElapsedTimes :
    CfgLegal Cfg.atReset ∧
    ∃ t, execAll [.snapshot 100, .reset, .snapshot 250, .snapshot 450] (constructed Cfg.atReset 0) = .next t :=
  ⟨by decide, _, rfl⟩

theorem test_witness_DefaultFrameRateIsGuarded : 1 ≤ (1 : Nat) ∧ (0 : ℝ) < 1 := ⟨le_rfl, one_pos⟩

/-- Snapshots at one time never run backwards, so any number of them completes. -/
theorem snapshots_complete (n : Nat) (now : Ticks) (s : State) (h : s.acc.lastSnapshotTime.toNat ≤ now.toNat) :
    ∃ t, execAll ((List.replicate n now).map .snapshot) s = .next t := by
  induction n generalizing s with
  | zero => exact ⟨s, rfl⟩
  | succ n ih =>
    rcases exec_snapshot_cases now s with ⟨h', -⟩ | ⟨-, e⟩
    · omega
    · obtain ⟨t, ht⟩ := ih ((s.withAcc (s.acc.snapshot now).1).respond (.snap (s.acc.snapshot now).2))
        (Nat.le_refl now.toNat)
      exact ⟨t, by rw [List.replicate_succ, List.map_cons, execAll_cons_of_next e]; exact ht⟩

theorem test_witness_DecayDrivesEveryChannelToZero :
    (painted.mark = none ∧ painted.acc.raster.wf ∧ painted.acc.decayNum.toNat < 65536 ∧ 255 ≤ (List.replicate 255 (7 : Ticks)).length ∧
      ∃ t, execAll ((List.replicate 255 (7 : Ticks)).map .snapshot) painted = .next t) ∧
    (65536#17).toNat ≤ 65536 ∧ (3 : Byte).toNat ≤ (3 : Byte).toNat ∧ (65535#17).toNat < 65536 ∧ 1 ≤ (1 : Byte).toNat :=
  ⟨⟨rfl, by decide, by decide, by rw [List.length_replicate], snapshots_complete 255 7 painted (by decide)⟩, by decide⟩

theorem test_witness_FullRateKeepsTheRaster :
    ∃ s t : State, s.mark = none ∧ s.acc.raster.wf ∧ s.acc.decayNum.toNat = 65536 ∧ s.acc.raster ≠ [] ∧
      exec (.snapshot 1) s = .next t :=
  ⟨painted.withAcc { painted.acc with decayNum := 65536 }, _, rfl, by decide, by decide, by decide, rfl⟩

/-- The dyadic rates at both ends of their range and at the source's 0.5. -/
theorem test_witness_DyadicDecayHasClosedForm :
    (∃ s t : State, s.mark = none ∧ s.acc.decayNum.toNat = 2 ^ (16 - 0) ∧ s.acc.raster.wf ∧
      execAll ([1, 2].map .snapshot) s = .next t) ∧
    (∃ s t : State, s.mark = none ∧ s.acc.decayNum.toNat = 2 ^ (16 - 1) ∧ s.acc.raster.wf ∧
      execAll ([1, 2].map .snapshot) s = .next t) ∧
    (∃ s t : State, s.mark = none ∧ s.acc.decayNum.toNat = 2 ^ (16 - 16) ∧ s.acc.raster.wf ∧
      execAll ([1, 2].map .snapshot) s = .next t) :=
  ⟨⟨painted.withAcc { painted.acc with decayNum := 65536 }, _, rfl, by decide, by decide, rfl⟩,
   ⟨painted, _, rfl, by decide, by decide, rfl⟩,
   ⟨painted.withAcc { painted.acc with decayNum := 1 }, _, rfl, by decide, by decide, rfl⟩⟩

/-- Different pixels, and the same pixel twice. -/
theorem test_witness_CopiesShowThePaintTrail :
    painted.mark = none ∧ painted.acc.raster.wf ∧ painted.acc.inBounds 3 3 = true ∧ painted.acc.inBounds 0 0 = true ∧
    (∃ t, execAll [.ingest [eventAt 3 3 .on], .snapshot 1, .ingest [eventAt 0 0 .off], .snapshot 1] painted = .next t) ∧
    (∃ t, execAll [.ingest [eventAt 3 3 .on], .snapshot 1, .ingest [eventAt 3 3 .off], .snapshot 1] painted = .next t) :=
  ⟨rfl, by decide, by decide, by decide, ⟨_, rfl⟩, _, rfl⟩

theorem test_witness_ResetKeepsTheFrameCount :
    painted.mark = none ∧ (∃ t, execAll [.snapshot 450, .reset, .ingest [eventAt 0 3 .off], .snapshot 450] painted = .next t) ∧
    ∀ ev ∈ [eventAt 0 3 .off], painted.acc.inBounds ev.x ev.y = true →
      ∀ c < 3, 15 ≠ channelIndex painted.acc.width ev.x.toNat ev.y.toNat c := 
  ⟨rfl, ⟨_, rfl⟩, by decide⟩

/-- A state that meets the invariant, with a listed raster, a full window and a partial word. -/
def busy : State :=
  (withDecoder 1 [1, 8, 0x40] .carry).withAcc { painted.acc with fpsWindow := [1, 2] }

theorem test_witness_StepKeepsInvariant :
    busy.Inv ∧ ∃ t, step (busy.issueFirst (encode (.decodeChunk [0x10]))) = .next t ∧
      (busy.issueFirst (encode (.decodeChunk [0x10]))).Inv ∧
      (busy.issueFirst (encode (.decodeChunk [0x10]))).mark = none :=
  have acc : busy.acc.Inv :=
    ⟨⟨by decide, by decide, by decide, by decide, by decide, by decide, by decide, (epsLegal_iff _).1 rfl⟩,
      by decide, by decide, by decide⟩
  ⟨⟨⟨by decide, nofun⟩, acc, nofun, nofun⟩, _, rfl, ⟨⟨by decide, nofun⟩, acc, nofun, nofun⟩, rfl⟩

theorem test_witness_ConstructionSatisfiesInvariant : CfgLegal Cfg.atReset := by decide

/-- Two decoders and two painters. -/
def fourInstances : System :=
  { decoders := [constructDecoder .carry, constructDecoder .drop]
    painters := [constructPainter Cfg.atReset 0, constructPainter Cfg.atReset 5]
    mark := none }

/-- One witness for each clause. -/
theorem test_witness_InstancesShareNoState :
    fourInstances.mark = none ∧
    (∃ sys' r, fourInstances.decodeChunk 1 [1, 8, 0x40, 0x10] = .next (sys', r)) ∧
    (∃ sys' r, fourInstances.decodeWord 0 0x80000001 = .next (sys', r)) ∧
    (∃ sys', fourInstances.ingest 1 [eventE] = .next (sys', ())) ∧
    (∃ sys' r, fourInstances.snapshot 1 5 = .next (sys', r)) ∧
    (∃ sys', fourInstances.reset 0 = .next (sys', ())) ∧
    (∃ sys', fourInstances.addDecoder .drop = .next (sys', ())) ∧
    (∃ sys', fourInstances.addPainter Cfg.atReset 7 = .next (sys', ())) ∧
    1 < fourInstances.decoders.length ∧ 1 < fourInstances.painters.length ∧ (0 : Nat) ≠ 1 :=
  ⟨rfl, ⟨_, _, rfl⟩, ⟨_, _, rfl⟩, ⟨_, rfl⟩, ⟨_, _, rfl⟩, ⟨_, rfl⟩, ⟨_, rfl⟩, ⟨_, rfl⟩, by decide⟩

theorem test_witness_IndependentStreamsCommute :
    fourInstances.mark = none ∧ (0 : Nat) ≠ 1 ∧ ∃ a b r q, fourInstances.decodeChunk 0 [1, 8, 0x40, 0x10] = .next (a, r) ∧
      a.decodeChunk 1 [1, 0, 0, 0x80] = .next (b, q) :=
  ⟨rfl, by decide, _, _, _, _, rfl, rfl⟩

/-- Both sub-blocks at instance 1, and both of SNAPSHOT's clauses at their boundary. -/
theorem test_witness_SystemRunsTheInstancesOwnTransaction :
    fourInstances.mark = none ∧
    ∃ s : State, s.mark = none ∧ fourInstances.decoders[1]? = some s.dec ∧ fourInstances.painters[1]? = some s.acc ∧
      s.acc.lastSnapshotTime.toNat ≤ (5 : Ticks).toNat ∧ (4 : Ticks).toNat < s.acc.lastSnapshotTime.toNat :=
  ⟨rfl, { constructed Cfg.atReset 5 with dec := constructDecoder .drop }, rfl, rfl, rfl, by decide, by decide⟩

/-- One witness for each clause: a fault, a refusal, a marked system, a next system, a reserved code, an illegal
configuration. -/
theorem test_witness_SystemMarkIsStickyAndAlone :
    fourInstances.mark = none ∧ fourInstances.exec (.snapshot 1 4) = .fault .timeBackwards ∧
    fourInstances.exec (.reset 2) = .refused .noInstance ∧
    (fourInstances.transact (.snapshot 1 4)).mark = some (.fault .timeBackwards) ∧
    (∃ sys' r, fourInstances.exec (.decodeWord 0 0) = .next (sys', r)) ∧
    (SystemCmd.cmdRsv6 = .cmdRsv0 ∨ SystemCmd.cmdRsv6 = .cmdRsv6 ∨ SystemCmd.cmdRsv6 = .cmdRsv7) ∧
    ¬ CfgLegal { Cfg.atReset with width := 0 } :=
  ⟨rfl, rfl, rfl, rfl, ⟨_, _, rfl⟩, .inr (.inl rfl), by decide⟩

/-- R177: after a fault at painter 1 no transaction to any instance goes on, and none changes the system. -/
theorem test_system_stops :
    ((fourInstances.transact (.snapshot 1 4)).transact (.decodeWord 0 0x80000001)).transact (.reset 0) =
      fourInstances.transact (.snapshot 1 4) := by decide

theorem test_witness_OneListFeedsManyPainters :
    fourInstances.mark = none ∧ [1, 0].Nodup ∧ ∀ k ∈ [1, 0], k < fourInstances.painters.length := by decide

theorem test_witness_PseudoInstructionsExpand :
    State.reset.mark = none ∧ 2047 ≤ 2047 ∧ 17179869183 < 2 ^ 34 ∧ State.reset.dec.carry = [] := by decide

theorem test_witness_AssemblerEncodesInRangeLinesOnly : 0xF ∈ reservedTags := by decide

end Sys2Proof.Tests
end

section
/-! PROOFS. The family of spec/00_scope.md: construction refuses a configuration outside R5's table (R7), and a run of
it never starts (R204). -/

namespace Sys2Proof.Machine

/-- R7: construction refuses an illegal configuration. -/
theorem construct_of_not_cfgLegal {cfg : Cfg} (h : ¬ CfgLegal cfg) (now0 : Ticks) :
    construct cfg now0 = .refused .refuseConfig := by
  obtain ⟨hlegal, -⟩ | ⟨-, hrefused⟩ := construct_cases cfg now0
  · exact absurd hlegal h
  · exact hrefused

/-- R204: where construction is refused, the transactions of the run are not looked at. -/
theorem run_of_construct_refused {cfg : Cfg} {now0 : Ticks} {r : Refusal} (h : construct cfg now0 = .refused r)
    (is : List Instr) : run cfg now0 is = .marked (.refusal r) := by
  simp only [run, h]

/-- Settles O15: a legal configuration denies every row of the disjunction, EPS's row by `epsLegal_iff`; so the
configuration is illegal, construction refuses it, and every run of it is that refusal. -/
theorem illegalConfigurationIsRefused : Obligations.IllegalConfigurationIsRefused := by
  intro cfg now0 houtside
  have hillegal : ¬ CfgLegal cfg := by
    rintro ⟨hwidth, hheight, hdecayLow, hdecayHigh, hfrac, hwindow, heps, htick, ⟨hon0, hon1, hon2⟩,
      ⟨hoff0, hoff1, hoff2⟩, hcolors, hchan, hcnt, htime, hts⟩
    revert houtside
    simp only [imp_false, not_or, not_lt, not_le, ne_eq, not_not]
    exact ⟨hwidth, hheight, hdecayLow, hdecayHigh, hfrac, hwindow, (epsLegal_iff _).1 heps, htick,
      hon0, hon1, hon2, hoff0, hoff1, hoff2, hcolors, hchan, hcnt, htime, hts⟩
  have hrefused := construct_of_not_cfgLegal hillegal now0
  exact ⟨hrefused, run_of_construct_refused hrefused⟩

end Sys2Proof.Machine
end

section
/-! PROOFS. The family of spec/10_state.md: the invariant of every step (R22, R25, R29, R31, R32), the frames of
instructions and sub-blocks (R31, R36), what a step runs (R35), reset values (R37), and instances (R36, R181). -/

namespace Sys2Proof.Machine

/-! ## Events are CDEvents of R32 -/

/-- R75: an assembled timestamp has 34 bits. -/
theorem timestamp_lt (th : BitVec 28) (tLow : BitVec 6) : (timestamp th tLow).toNat < 2 ^ 34 := by
  rw [timestamp, BitVec.toNat_setWidth_of_le (by decide)]
  exact BitVec.isLt _

theorem cdEvent_wellFormed (pol : Polarity) (th : BitVec 28) (tLow : BitVec 6) (x y : BitVec 11) :
    (cdEvent pol th tLow x y).WellFormed := timestamp_lt th tLow

theorem stepWord_wellFormed (th : BitVec 28) (w : Word) : ∀ ev ∈ (stepWord th w).2.toList, ev.WellFormed := by
  obtain ⟨-, h⟩ | ⟨-, h⟩ | ⟨-, h⟩ | ⟨-, -, -, h⟩ := stepWord_cases th w
  · rw [h]
    exact List.forall_mem_singleton.2 (cdEvent_wellFormed _ _ _ _ _)
  · rw [h]
    exact List.forall_mem_singleton.2 (cdEvent_wellFormed _ _ _ _ _)
  · simp [h]
  · simp [h]

theorem stepWords_wellFormed (th : BitVec 28) (ws : List Word) : ∀ ev ∈ (stepWords th ws).2, ev.WellFormed := by
  induction ws generalizing th with
  | nil => simp
  | cons w ws ih => exact List.forall_mem_append.2 ⟨stepWord_wellFormed th w, ih _⟩

theorem decodeChunk_wellFormed (d : Decoder) (bytes : List Byte) :
    ∀ ev ∈ (d.decodeChunk bytes).2, ev.WellFormed := by
  cases hp : d.carryPolicy with
  | carry => rw [decodeChunk_carry hp]; exact stepWords_wellFormed _ _
  | drop => rw [decodeChunk_drop hp]; exact stepWords_wellFormed _ _

/-! ## The decoder's invariant -/

theorem Decoder.Inv.setTimeHigh {d : Decoder} (h : d.Inv) (v : BitVec 28) : (d.setTimeHigh v).Inv :=
  ⟨h.carry_short, h.drop_empty⟩

/-- R22: under carry the new tail completes no word (`splitWords_spec`); under drop the carry is not written. -/
theorem Decoder.Inv.decodeChunk {d : Decoder} (h : d.Inv) (bytes : List Byte) : (d.decodeChunk bytes).1.Inv := by
  cases hp : d.carryPolicy with
  | carry =>
    have htail := (splitWords_spec (d.carry ++ bytes)).2
    refine ⟨?_, fun hdrop => ?_⟩
    · rw [decodeChunk_carry hp]
      exact Nat.le_of_lt_succ htail
    · rw [decodeChunk_carryPolicy, hp] at hdrop
      cases hdrop
  | drop =>
    rw [decodeChunk_drop hp]
    exact h.setTimeHigh _

/-! ## The painter: its registers and its invariant -/

/-- R31: INGEST writes no configuration register. -/
theorem ingest_sameConfig (p : Painter) (evs : List CDEvent) : (p.ingest evs).SameConfig p := by
  rw [ingest_eq]
  constructor <;> rfl

/-- R31: SNAPSHOT writes no configuration register. -/
theorem snapshot_sameConfig (p : Painter) (now : Ticks) : (p.snapshot now).1.SameConfig p := by
  constructor <;> rfl

/-- R31: RESET writes no configuration register. -/
theorem reset_sameConfig (p : Painter) : p.reset.SameConfig p := by
  constructor <;> rfl

/-- That registers are legal depends on the configuration registers alone. -/
theorem Painter.RegistersLegal.of_sameConfig {p q : Painter} (h : p.RegistersLegal) (hq : q.SameConfig p) :
    q.RegistersLegal where
  width_pos := hq.width ▸ h.width_pos
  height_pos := hq.height ▸ h.height_pos
  decay_pos := hq.decayNum ▸ h.decay_pos
  decay_le := hq.decayNum ▸ h.decay_le
  capacity_pos := hq.fpsCapacity ▸ h.capacity_pos
  colors_differ := by rw [hq.offColor, hq.onColor]; exact h.colors_differ
  tick_pos := hq.tickHz ▸ h.tick_pos
  eps_pos := hq.eps ▸ h.eps_pos

/-- R57, R132: a paint is inside the raster because an event outside it paints nothing. -/
theorem Painter.Inv.ingestOne {p : Painter} (h : p.Inv) (ev : CDEvent) : (p.ingestOne ev).Inv := by
  by_cases hin : p.inBounds ev.x ev.y = true
  · obtain ⟨hx, hy⟩ := (inBounds_iff p ev.x ev.y).1 hin
    rw [ingestOne_inside hin]
    exact ⟨h.registers.of_sameConfig (by constructor <;> rfl), memory_wf_paint h.canonical _ _ _ _,
      memory_within_paint h.within hx hy _, h.window⟩
  · rw [ingestOne_outside hin]
    exact h

theorem Painter.Inv.ingest {p : Painter} (h : p.Inv) (evs : List CDEvent) : (p.ingest evs).Inv := by
  induction evs generalizing p with
  | nil => exact h
  | cons ev evs ih => exact ih (h.ingestOne ev)

/-- R137: a full window loses its oldest entry before it takes a new one, so it never outgrows its capacity. -/
theorem pushWindow_length_le {p : Painter} (hpos : 1 ≤ p.fpsCapacity) (hle : p.fpsWindow.length ≤ p.fpsCapacity)
    (e : Ticks) : (p.pushWindow e).length ≤ p.fpsCapacity := by
  by_cases hfull : p.windowFull = true
  · simp only [Painter.pushWindow, if_pos hfull, List.length_append, List.length_drop, List.length_singleton]
    omega
  · have hne := mt (windowFull_iff p).2 hfull
    simp only [Painter.pushWindow, if_neg hfull, List.length_append, List.length_singleton]
    omega

theorem Painter.Inv.snapshot {p : Painter} (h : p.Inv) (now : Ticks) : (p.snapshot now).1.Inv where
  registers := h.registers.of_sameConfig (snapshot_sameConfig p now)
  canonical := memory_wf_decay h.canonical _
  within := memory_within_decay h.within _
  window := pushWindow_length_le h.registers.capacity_pos h.window _

theorem Painter.Inv.reset {p : Painter} (h : p.Inv) : p.reset.Inv where
  registers := h.registers.of_sameConfig (reset_sameConfig p)
  canonical := memory_wf_clear p.raster
  within := nofun
  window := h.window

/-! ## The machine's invariant, one rule per state operation -/

theorem State.Inv.withDec {s : State} (h : s.Inv) {d : Decoder} (hd : d.Inv) : (s.withDec d).Inv :=
  ⟨hd, h.acc, h.out, h.responses⟩

theorem State.Inv.withAcc {s : State} (h : s.Inv) {p : Painter} (hp : p.Inv) : (s.withAcc p).Inv :=
  ⟨h.dec, hp, h.out, h.responses⟩

theorem State.Inv.withOut {s : State} (h : s.Inv) {evs : List CDEvent} (hevs : ∀ ev ∈ evs, ev.WellFormed) :
    (s.withOut evs).Inv :=
  ⟨h.dec, h.acc, hevs, h.responses⟩

theorem State.Inv.emit {s : State} (h : s.Inv) {r : Option CDEvent} (hr : ∀ ev ∈ r.toList, ev.WellFormed) :
    (s.emit r).Inv :=
  ⟨h.dec, h.acc, List.forall_mem_append.2 ⟨h.out, hr⟩, h.responses⟩

theorem State.Inv.respond {s : State} (h : s.Inv) {r : Response} (hr : r.Ok) : (s.respond r).Inv :=
  ⟨h.dec, h.acc, h.out, List.forall_mem_append.2 ⟨h.responses, List.forall_mem_singleton.2 hr⟩⟩

theorem State.Inv.withInput {s : State} (h : s.Inv) (fs : List Frame) : (s.withInput fs).Inv :=
  ⟨h.dec, h.acc, h.out, h.responses⟩

/-- An instruction that answers a next state keeps the invariant. -/
theorem exec_keeps_inv {i : Instr} {s t : State} (h : s.Inv) (hx : exec i s = .next t) : t.Inv := by
  obtain ⟨w, -, rfl⟩ | ⟨w, -, rfl⟩ | ⟨bytes, -, rfl⟩ | ⟨evs, -, rfl⟩ | ⟨now, -, rfl⟩ | ⟨-, rfl⟩ := exec_next_cases hx
  · exact (h.withDec (h.dec.setTimeHigh _)).emit (stepWord_wellFormed _ w)
  · have hev := stepWord_wellFormed s.dec.timeHigh w
    exact ((h.withDec (h.dec.setTimeHigh _)).withOut hev).respond hev
  · have hevs := decodeChunk_wellFormed s.dec bytes
    exact ((h.withDec (h.dec.decodeChunk bytes)).withOut hevs).respond hevs
  · exact h.withAcc (h.acc.ingest evs)
  · exact (h.withAcc (h.acc.snapshot now)).respond ⟨h.acc.canonical, h.acc.within⟩
  · exact h.withAcc h.acc.reset

/-- An instruction that answers a next state neither sets nor clears the mark (R178). -/
theorem exec_next_mark {i : Instr} {s t : State} (hx : exec i s = .next t) : t.mark = s.mark := by
  obtain ⟨w, -, rfl⟩ | ⟨w, -, rfl⟩ | ⟨bytes, -, rfl⟩ | ⟨evs, -, rfl⟩ | ⟨now, -, rfl⟩ | ⟨-, rfl⟩ :=
    exec_next_cases hx <;> rfl

/-- Settles O48: an idle step changes nothing; any other runs one instruction on the state with its frame taken. -/
theorem stepKeepsInvariant : Obligations.StepKeepsInvariant := by
  intro s t h hm hstep
  obtain ⟨-, -, rfl⟩ | ⟨f, rest, i, -, -, -, hx⟩ := step_next_cases hstep
  · exact ⟨h, hm⟩
  · exact ⟨exec_keeps_inv (h.withInput rest) hx, (exec_next_mark hx).trans hm⟩

/-! ## Configuration registers -/

/-- Settles O17: a decoder instruction leaves the painter as it is and writes no policy; each painter transaction has
its own lemma and leaves the decoder as it is. -/
theorem configurationRegistersAreReadOnly : Obligations.ConfigurationRegistersAreReadOnly := by
  intro i s t _ hx
  have unchanged : s.acc.SameConfig s.acc := by constructor <;> rfl
  obtain ⟨w, -, rfl⟩ | ⟨w, -, rfl⟩ | ⟨bytes, -, rfl⟩ | ⟨evs, -, rfl⟩ | ⟨now, -, rfl⟩ | ⟨-, rfl⟩ := exec_next_cases hx
  · exact ⟨unchanged, rfl⟩
  · exact ⟨unchanged, rfl⟩
  · exact ⟨unchanged, decodeChunk_carryPolicy _ _⟩
  · exact ⟨ingest_sameConfig _ _, rfl⟩
  · exact ⟨snapshot_sameConfig _ _, rfl⟩
  · exact ⟨reset_sameConfig _, rfl⟩

/-! ## The two sub-blocks -/

/-- No decoder instruction faults or is refused (R114). -/
theorem exec_forDecoder_completes {i : Instr} (hi : forDecoder i = true) (s : State) : ∃ t, exec i s = .next t := by
  cases i with
  | ingest | snapshot | reset | cmdRsv0 | cmdRsv6 | cmdRsv7 => cases hi
  | _ => exact ⟨_, rfl⟩

/-- R36: a decoder instruction is one function of the decoder, and leaves the painter, what is pending and the mark
as they are. -/
theorem exec_forDecoder {i : Instr} (hi : forDecoder i = true) :
    ∃ next : Decoder → Decoder, ∀ s, ∃ t, exec i s = .next t ∧ t.dec = next s.dec ∧ t.acc = s.acc ∧
      t.input = s.input ∧ t.mark = s.mark := by
  -- What form the instruction has does not depend on the state, so it is read from one run, from reset.
  obtain ⟨t, hx⟩ := exec_forDecoder_completes hi State.reset
  obtain ⟨w, rfl, -⟩ | ⟨w, rfl, -⟩ | ⟨bytes, rfl, -⟩ | ⟨evs, rfl, -⟩ | ⟨now, rfl, -⟩ | ⟨rfl, -⟩ := exec_next_cases hx
  · exact ⟨fun d => d.setTimeHigh (stepWord d.timeHigh w).1, fun s => ⟨_, exec_word w s, rfl, rfl, rfl, rfl⟩⟩
  · exact ⟨fun d => (d.decodeWord w).1, fun s => ⟨_, exec_decodeWord w s, rfl, rfl, rfl, rfl⟩⟩
  · exact ⟨fun d => (d.decodeChunk bytes).1, fun s => ⟨_, exec_decodeChunk bytes s, rfl, rfl, rfl, rfl⟩⟩
  · cases hi
  · cases hi
  · cases hi

/-- SNAPSHOT completes when its time does not run backwards (R135). -/
theorem exec_snapshot_of_le {now : Ticks} {s : State} (h : s.acc.lastSnapshotTime.toNat ≤ now.toNat) :
    exec (.snapshot now) s =
      .next ((s.withAcc (s.acc.snapshot now).1).respond (.snap (s.acc.snapshot now).2)) := by
  obtain ⟨hlt, -⟩ | ⟨-, hx⟩ := exec_snapshot_cases now s
  · omega
  · exact hx

/-- SNAPSHOT faults when its time runs backwards (R136). -/
theorem exec_snapshot_of_lt {now : Ticks} {s : State} (h : now.toNat < s.acc.lastSnapshotTime.toNat) :
    exec (.snapshot now) s = .fault .timeBackwards := by
  obtain ⟨-, hx⟩ | ⟨hle, -⟩ := exec_snapshot_cases now s
  · exact hx
  · omega

/-- If SNAPSHOT completes, its time did not run backwards (R136). -/
theorem le_of_exec_snapshot_next {now : Ticks} {s t : State} (hx : exec (.snapshot now) s = .next t) :
    s.acc.lastSnapshotTime.toNat ≤ now.toNat := by
  by_contra hlt
  rw [exec_snapshot_of_lt (not_le.1 hlt)] at hx
  cases hx

/-- R36: a painter transaction is one function of the painter on the painters it completes for, and leaves the
decoder, the output sequence, what is pending and the mark as they are. -/
theorem exec_forPainter {i : Instr} (hi : forPainter i = true) :
    ∃ (completes : Painter → Prop) (next : Painter → Painter),
      (∀ s t, exec i s = .next t → completes s.acc) ∧
      ∀ s, completes s.acc → ∃ t, exec i s = .next t ∧ t.acc = next s.acc ∧ t.dec = s.dec ∧ t.out = s.out ∧
        t.input = s.input ∧ t.mark = s.mark := by
  cases i with
  | ingest evs =>
    exact ⟨fun _ => True, (·.ingest evs), fun _ _ _ => trivial,
      fun s _ => ⟨_, exec_ingest evs s, rfl, rfl, rfl, rfl, rfl⟩⟩
  | snapshot now =>
    exact ⟨fun p => p.lastSnapshotTime.toNat ≤ now.toNat, fun p => (p.snapshot now).1,
      fun _ _ => le_of_exec_snapshot_next, fun s h => ⟨_, exec_snapshot_of_le h, rfl, rfl, rfl, rfl, rfl⟩⟩
  | reset =>
    exact ⟨fun _ => True, Painter.reset, fun _ _ _ => trivial, fun s _ => ⟨_, exec_reset s, rfl, rfl, rfl, rfl, rfl⟩⟩
  | _ => cases hi

/-- Settles O32: an instruction acts on its own sub-block by a function of that sub-block (`exec_forDecoder`,
`exec_forPainter`), so two states that agree there agree there afterwards. -/
theorem subBlocksShareNoState : Obligations.SubBlocksShareNoState := by
  refine ⟨fun i s t _ _ hi hdec => ?_, fun i s t s' _ _ hi hacc hs => ?_⟩
  · obtain ⟨next, hnext⟩ := exec_forDecoder hi
    obtain ⟨s', hs, hsdec, hsacc, hsinput, hsmark⟩ := hnext s
    obtain ⟨t', ht, htdec, -⟩ := hnext t
    exact ⟨s', t', hs, ht, hsacc, hsinput, hsmark, by rw [hsdec, htdec, hdec]⟩
  · obtain ⟨completes, next, hcompletes, hnext⟩ := exec_forPainter hi
    have hsc := hcompletes s s' hs
    obtain ⟨u, hu, hsacc, hsdec, hsout, hsinput, hsmark⟩ := hnext s hsc
    obtain ⟨t', ht, htacc, -⟩ := hnext t (hacc ▸ hsc)
    cases hs.symm.trans hu
    exact ⟨t', ht, hsdec, hsout, hsinput, hsmark, by rw [hsacc, htacc, hacc]⟩

/-! ## Instances -/

/-- INGEST to a painter that exists, of an unmarked system, completes (R130). -/
theorem system_ingest_eq {sys : System} {k : Nat} {p : Painter} (hm : sys.mark = none)
    (hp : sys.painters[k]? = some p) (evs : List CDEvent) :
    sys.ingest k evs = .next ({ sys with painters := sys.painters.set k (p.ingest evs) }, ()) :=
  onPainter_eq hm hp _

/-- Settles O53, by induction on the painters: the first one takes the list and the others are as they were, so the
rest are fed as before; and the first is not among them, since none is fed twice. -/
theorem oneListFeedsManyPainters : Obligations.OneListFeedsManyPainters := by
  intro sys evs ks
  induction ks generalizing sys with
  | nil => intro hm _ _; exact ⟨sys, unlessMarked_none hm _, rfl, fun j => by simp⟩
  | cons k ks ih =>
    intro hm hnodup hexist
    obtain ⟨hk, hnodup⟩ := List.nodup_cons.1 hnodup
    obtain ⟨hklt, hexist⟩ := List.forall_mem_cons.1 hexist
    have hpk : sys.painters[k]? = some sys.painters[k] := List.getElem?_eq_getElem hklt
    obtain ⟨sys', hfeed, hdec, hpainters⟩ :=
      ih { sys with painters := sys.painters.set k (sys.painters[k].ingest evs) } hm hnodup (by simpa using hexist)
    refine ⟨sys', ?_, hdec, fun j => ?_⟩
    · rw [System.feed, system_ingest_eq hm hpk]
      exact hfeed
    · rw [hpainters j]
      by_cases hj : j = k
      · subst hj
        simp [hk, hklt]
      · simp [hj, List.getElem?_set_ne (Ne.symm hj)]

/-- Settles O54: both sides run the same operation of the decoder or the painter, and compare the same times. -/
theorem systemRunsTheInstancesOwnTransaction : Obligations.SystemRunsTheInstancesOwnTransaction := by
  intro sys k s hm _
  refine ⟨fun hd => ⟨fun w => ?_, fun bytes => ?_⟩, fun hp => ⟨fun evs => ?_, ?_, fun now hle => ?_, fun now hlt => ?_⟩⟩
  · refine ⟨_, _, exec_decodeWord w s, rfl, ?_⟩
    rw [System.exec, System.decodeWord, onDecoder_eq hm hd]
    rfl
  · refine ⟨_, _, exec_decodeChunk bytes s, rfl, ?_⟩
    rw [System.exec, System.decodeChunk, onDecoder_eq hm hd]
    rfl
  · refine ⟨_, exec_ingest evs s, ?_⟩
    rw [System.exec, system_ingest_eq hm hp]
    rfl
  · refine ⟨_, exec_reset s, ?_⟩
    rw [System.exec, System.reset, onPainter_eq hm hp]
    rfl
  · refine ⟨_, _, exec_snapshot_of_le hle, rfl, ?_⟩
    rw [System.exec, system_snapshot_eq hm hp, if_neg (mt (timeBackwards_iff _ _).1 (not_lt.2 hle))]
    rfl
  · refine ⟨exec_snapshot_of_lt hlt, ?_⟩
    rw [System.exec, system_snapshot_eq hm hp, if_pos ((timeBackwards_iff _ _).2 hlt)]
    rfl

/-! ## Steps -/

/-- R35: an unmarked machine runs the instruction of its first pending frame, with that frame taken. -/
theorem step_of_decode {s : State} {f : Frame} {rest : List Frame} {i : Instr} (hm : s.mark = none)
    (hinput : s.input = f :: rest) (hdecode : decode f = .ok i) : step s = exec i (s.withInput rest) := by
  simp only [step, fetch, hm, hinput, hdecode]

/-- Settles O8: the step's equation, the taken frame written as a record update. -/
theorem stepRunsTheDecodedInstruction : Obligations.StepRunsTheDecodedInstruction :=
  fun _ _ _ _ hm hinput hdecode => step_of_decode hm hinput hdecode

/-- The table's decoder reads an instruction exactly where its frame decodes. -/
theorem decodeTableWord_eq_some_iff {nbits w : Nat} {i : Instr} :
    decodeTableWord nbits w = some i ↔ decode (frameOfTable nbits w) = .ok i := by
  unfold decodeTableWord
  split <;> simp [*]

/-- Settles O9: the placed frame is the first one pending, and taking it again leaves the state it was placed in. -/
theorem placedTableWordIsRun : Obligations.PlacedTableWordIsRun := by
  intro s nbits w i hm hdecode
  exact step_of_decode (s := s.withFetchWord nbits w) hm rfl (decodeTableWord_eq_some_iff.1 hdecode)

/-! ## Construction -/

/-- R5, R31: the register of a colour in range holds its three channels. -/
theorem colorRegister_toNat {c : CfgColor} (h : CfgColorLegal 8 c) :
    (colorRegister c).c0.toNat = c.c0 ∧ (colorRegister c).c1.toNat = c.c1 ∧ (colorRegister c).c2.toNat = c.c2 := by
  obtain ⟨h0, h1, h2⟩ := h
  simp only [colorRegister, BitVec.toNat_ofNat]
  omega

/-- Settles O14: the reset values are construction's own; DECAY_NUM and the colours are in range, so their registers
hold them whole. -/
theorem constructionGivesResetValues : Obligations.ConstructionGivesResetValues := by
  intro cfg now0 hlegal
  have ⟨_, _, _, hdecay, _, _, _, _, hon, hoff, _, hchan, _⟩ := hlegal
  rw [hchan] at hon hoff
  obtain ⟨hon0, hon1, hon2⟩ := colorRegister_toNat hon
  obtain ⟨hoff0, hoff1, hoff2⟩ := colorRegister_toNat hoff
  have hdecayNum : (BitVec.ofNat 17 cfg.decayNum).toNat = cfg.decayNum :=
    (BitVec.toNat_ofNat _ _).trans (Nat.mod_eq_of_lt (by omega))
  exact ⟨constructed cfg now0, if_pos hlegal, rfl, rfl, rfl, fun _ _ _ _ _ _ => rfl, rfl, rfl, rfl, rfl, rfl, rfl,
    hdecayNum, rfl, hon0, hon1, hon2, hoff0, hoff1, hoff2, rfl, rfl, rfl, rfl, rfl⟩

end Sys2Proof.Machine
end

section
/-! PROOFS. The family of spec/20_memory.md: the byte order of words (R51), whole words decoded from an empty carry
and their timestamps (R62, R75), events outside the raster (R57), returned raster copies (R60), and independent
decoders (R63). -/

namespace Sys2Proof

/-! ## Words and their bytes -/

/-- A field put above bits that stay below it adds its value times its place. -/
theorem or_shiftLeft_toNat {w n : Nat} {low high : BitVec w} (hlow : low.toNat < 2 ^ n)
    (hhigh : high.toNat * 2 ^ n < 2 ^ w) : (low ||| high <<< n).toNat = low.toNat + high.toNat * 2 ^ n := by
  have hplace : (high <<< n).toNat = high.toNat <<< n := by
    rw [BitVec.toNat_shiftLeft, Nat.shiftLeft_eq, Nat.mod_eq_of_lt hhigh]
  rw [BitVec.toNat_or, hplace, Nat.lor_comm, ← Nat.shiftLeft_add_eq_or_of_lt hlow, Nat.shiftLeft_eq, Nat.add_comm]

/-- R51: each byte joins above the ones before it. -/
theorem le32_toNat (b0 b1 b2 b3 : Byte) :
    (le32 b0 b1 b2 b3).toNat = b0.toNat + b1.toNat * 2 ^ 8 + b2.toNat * 2 ^ 16 + b3.toNat * 2 ^ 24 := by
  have hbyte (b : Byte) : (b.setWidth 32).toNat = b.toNat ∧ b.toNat < 2 ^ 8 :=
    ⟨BitVec.toNat_setWidth_of_le (by decide), b.isLt⟩
  obtain ⟨h0, hlt0⟩ := hbyte b0
  obtain ⟨h1, hlt1⟩ := hbyte b1
  obtain ⟨h2, hlt2⟩ := hbyte b2
  obtain ⟨h3, hlt3⟩ := hbyte b3
  have two : (b0.setWidth 32 ||| b1.setWidth 32 <<< 8).toNat = b0.toNat + b1.toNat * 2 ^ 8 := by
    rw [or_shiftLeft_toNat (by omega) (by omega), h0, h1]
  have three : (b0.setWidth 32 ||| b1.setWidth 32 <<< 8 ||| b2.setWidth 32 <<< 16).toNat =
      b0.toNat + b1.toNat * 2 ^ 8 + b2.toNat * 2 ^ 16 := by
    rw [or_shiftLeft_toNat (by omega) (by omega), two, h2]
  rw [le32, or_shiftLeft_toNat (by omega) (by omega), three, h3]

/-- R71: the tag is the high nibble of a word's fourth byte. -/
theorem wordTag_eq_byte3 (w : Word) : wordTag w = (w.extractLsb' 24 8).extractLsb' 4 4 := by
  ext i hi
  simp [wordTag, show 4 + i < 8 by omega, ← Nat.add_assoc]

end Sys2Proof

namespace Sys2Proof.Machine

/-- Settles O5: the number is that of the four bytes in their places, and the tag is read from the fourth byte. -/
theorem wordsAreLittleEndian : Obligations.WordsAreLittleEndian := by
  intro b0 b1 b2 b3
  refine ⟨le32_toNat b0 b1 b2 b3, le32_byte3 b0 b1 b2 b3, ?_⟩
  rw [wordTag_eq_byte3, le32_byte3]

/-! ## Decoding encoded words -/

/-- R103: stepping an encoded TIME_HIGH word loads its payload and emits nothing. -/
@[simp] theorem stepWord_encodeTh (th h : BitVec 28) : stepWord th (encodeTh h) = (h, none) := by
  simp [stepWord, decodeEvt2, stepInstr, wordTimeHigh]

/-- R101, R102: stepping an encoded CD word keeps time_high and emits the event of its fields. -/
@[simp] theorem stepWord_encodeCd (th : BitVec 28) (pol : Polarity) (l : BitVec 6) (x y : BitVec 11) :
    stepWord th (encodeCd pol l x y) = (th, some (cdEvent pol th l x y)) := by
  cases pol with
  | off => simp [stepWord, decodeEvt2, stepInstr, wordCdOff, Polarity.bit]
  | on => simp [stepWord, decodeEvt2, stepInstr, wordCdOn, Polarity.bit]

/-- R62, R75: a timestamp as a number. -/
theorem timestamp_toNat (th : BitVec 28) (l : BitVec 6) : (timestamp th l).toNat = th.toNat * 64 + l.toNat := by
  have hth : (th.setWidth 34).toNat = th.toNat := BitVec.toNat_setWidth_of_le (by decide)
  have hl : (l.setWidth 34).toNat = l.toNat := BitVec.toNat_setWidth_of_le (by decide)
  rw [timestamp, BitVec.toNat_setWidth_of_le (by decide), BitVec.or_comm, or_shiftLeft_toNat (by omega) (by omega),
    hth, hl]
  omega

theorem timestamp_eq_ofNat (th : BitVec 28) (l : BitVec 6) :
    timestamp th l = BitVec.ofNat 64 (th.toNat * 64 + l.toNat) := by
  rw [← timestamp_toNat, BitVec.ofNat_toNat, BitVec.setWidth_eq]

/-- R106, R107: from an empty carry a chunk of whole words is stepped word by word under either policy, and the carry
stays empty. -/
theorem decodeChunk_words {d : Decoder} (hcarry : d.carry = []) (ws : List Word) :
    d.decodeChunk (ws.flatMap bytesOfWord) =
      (d.setTimeHigh (stepWords d.timeHigh ws).1, (stepWords d.timeHigh ws).2) := by
  have hsplit : splitWords (ws.flatMap bytesOfWord) = (ws, []) := by
    simpa using splitWords_words ws (tail := []) (by decide)
  cases hp : d.carryPolicy with
  | carry =>
    rw [decodeChunk_carry hp, Decoder.chunkCarry, hcarry, List.nil_append, hsplit, ← hcarry]
    rfl
  | drop => rw [decodeChunk_drop hp, Decoder.chunkDrop, hsplit]

/-- Settles O26: the four words are stepped in order, so each CD word takes the payload loaded just before it. -/
theorem cdTimestampsFollowTheLatestTimeHigh : Obligations.CdTimestampsFollowTheLatestTimeHigh := by
  intro h1 h2 pol l x y s _ hcarry
  have hsteps : stepWords s.dec.timeHigh [encodeTh h1, encodeCd pol l x y, encodeTh h2, encodeCd pol l x y] =
      (h2, [cdEvent pol h1 l x y, cdEvent pol h2 l x y]) := by
    simp [stepWords_cons]
  refine ⟨_, exec_decodeChunk _ s, ?_, ?_⟩
  · rw [state_respond_out, state_withOut_out, decodeChunk_words hcarry, hsteps]
    simp [cdEvent, timestamp_eq_ofNat]
  · rw [state_respond_dec, state_withOut_dec, state_withDec_dec, decodeChunk_words hcarry, hsteps]
    rfl

/-! ## Returned responses -/

/-- R10, R60: an instruction only appends to the responses returned so far. -/
theorem exec_next_responses {i : Instr} {s t : State} (hx : exec i s = .next t) : s.responses <+: t.responses := by
  obtain ⟨w, -, rfl⟩ | ⟨w, -, rfl⟩ | ⟨bytes, -, rfl⟩ | ⟨evs, -, rfl⟩ | ⟨now, -, rfl⟩ | ⟨-, rfl⟩ := exec_next_cases hx
  · exact List.prefix_rfl
  · exact List.prefix_append _ _
  · exact List.prefix_append _ _
  · exact List.prefix_rfl
  · exact List.prefix_append _ _
  · exact List.prefix_rfl

theorem execAll_next_responses {is : List Instr} {s u : State} (hx : execAll is s = .next u) :
    s.responses <+: u.responses := by
  induction is generalizing s with
  | nil => cases hx; exact List.prefix_rfl
  | cons i is ih =>
    obtain ⟨t, hi, his⟩ := execAll_cons_next hx
    exact (exec_next_responses hi).trans (ih his)

/-- Settles O39: the copy is taken from the painter before its decay, and the responses only grow at their end. -/
theorem returnedCopyNeverChanges : Obligations.ReturnedCopyNeverChanges := by
  intro now later s t u _ hsnap hlater
  cases exec_snapshot_next hsnap
  obtain ⟨rs, hrs⟩ := execAll_next_responses hlater
  refine ⟨(s.acc.snapshot now).2, rfl, ?_⟩
  simp [← hrs]

/-! ## Independent decoders -/

/-- R63, R181: transactions on two different decoders complete in either order, with the same results and the same
system at the end. -/
theorem onDecoder_comm {β γ : Type} {sys a b : System} {j k : Nat} (hjk : j ≠ k) {f : Decoder → Decoder × β}
    {g : Decoder → Decoder × γ} {r : β} {q : γ} (hj : sys.onDecoder j f = .next (a, r))
    (hk : a.onDecoder k g = .next (b, q)) :
    ∃ a', sys.onDecoder k g = .next (a', q) ∧ a'.onDecoder j f = .next (b, r) := by
  obtain ⟨hm, d, hd, rfl, rfl⟩ := onDecoder_next hj
  obtain ⟨-, e, he, rfl, rfl⟩ := onDecoder_next hk
  have he' : sys.decoders[k]? = some e := by rwa [List.getElem?_set_ne hjk] at he
  have hd' : (sys.decoders.set k (g e).1)[j]? = some d := by rwa [List.getElem?_set_ne hjk.symm]
  refine ⟨_, onDecoder_eq hm he' g, ?_⟩
  rw [List.set_comm _ _ hjk]
  exact onDecoder_eq (sys := { sys with decoders := sys.decoders.set k (g e).1 }) hm hd' f

/-- Settles O52: DECODE_CHUNK is one transaction on one decoder. -/
theorem independentStreamsCommute : Obligations.IndependentStreamsCommute :=
  fun _ _ _ _ _ _ _ _ _ _ hjk hj hk => onDecoder_comm hjk hj hk

/-! ## Events outside the raster -/

/-- Settles O35: the event fails the bounds test, so the painter is given back as it was. -/
theorem outOfBoundsEventChangesNothing : Obligations.OutOfBoundsEventChangesNothing := by
  intro ev s _ hout
  have houtside : ¬ s.acc.inBounds ev.x ev.y = true := by
    rw [inBounds_iff]
    omega
  rw [exec_ingest, ingest_cons, ingest_nil, ingestOne_outside houtside]
  rfl

end Sys2Proof.Machine
end

section
/-! PROOFS. The family of spec/30_encoding.md: words and their encodings (R70 to R78), the opcode map (R79), command
frames (R80), reserved command codes (R81), and the assembler's lines and pseudo-instructions (R82, R83). -/

namespace Sys2Proof

/-! ## Encoded words as numbers -/

/-- R78: `encode_cd` puts each field in its place. -/
theorem encodeCd_toNat (pol : Polarity) (t : BitVec 6) (x y : BitVec 11) :
    (encodeCd pol t x y).toNat = pol.bit.toNat * 2 ^ 28 + t.toNat * 2 ^ 22 + x.toNat * 2 ^ 11 + y.toNat := by
  have hpol : (pol.bit.setWidth 32).toNat = pol.bit.toNat := BitVec.toNat_setWidth_of_le (by decide)
  have ht : (t.setWidth 32).toNat = t.toNat := BitVec.toNat_setWidth_of_le (by decide)
  have hx : (x.setWidth 32).toNat = x.toNat := BitVec.toNat_setWidth_of_le (by decide)
  have hy : (y.setWidth 32).toNat = y.toNat := BitVec.toNat_setWidth_of_le (by decide)
  have hlowFirst (a b c d : Word) : a ||| b ||| c ||| d = d ||| c ||| b ||| a := by ac_rfl
  have two : (y.setWidth 32 ||| x.setWidth 32 <<< 11).toNat = y.toNat + x.toNat * 2 ^ 11 := by
    rw [or_shiftLeft_toNat (by omega) (by omega), hy, hx]
  have three : (y.setWidth 32 ||| x.setWidth 32 <<< 11 ||| t.setWidth 32 <<< 22).toNat =
      y.toNat + x.toNat * 2 ^ 11 + t.toNat * 2 ^ 22 := by
    rw [or_shiftLeft_toNat (by omega) (by omega), two, ht]
  rw [encodeCd, hlowFirst, or_shiftLeft_toNat (by omega) (by omega), three, hpol]
  omega

/-- R74, R82: a word is its tag in bits 31:28 and its payload below. -/
theorem encodeRsv_toNat (tag : BitVec 4) (p : BitVec 28) :
    (encodeRsv tag p).toNat = tag.toNat * 2 ^ 28 + p.toNat := by
  have htag : (tag.setWidth 32).toNat = tag.toNat := BitVec.toNat_setWidth_of_le (by decide)
  have hp : (p.setWidth 32).toNat = p.toNat := BitVec.toNat_setWidth_of_le (by decide)
  rw [encodeRsv, BitVec.or_comm, or_shiftLeft_toNat (by omega) (by omega), htag, hp, Nat.add_comm]

/-! ## Every format is a tag and a payload -/

/-- R73: a TIME_HIGH word is tag 0x8 and its payload. -/
theorem encodeTh_eq_encodeRsv (h : BitVec 28) : encodeTh h = encodeRsv 0x8#4 h := rfl

/-- R72: the three fields of a CD word make up its payload. -/
theorem encodeCd_fields_eq_encodeRsv (pol : Polarity) (w : Word) :
    encodeCd pol (wordTLow w) (wordX w) (wordY w) = encodeRsv (pol.bit.setWidth 4) (wordPayload w) := by
  apply BitVec.eq_of_toNat_eq
  have hpol : (pol.bit.setWidth 4).toNat = pol.bit.toNat := BitVec.toNat_setWidth_of_le (by decide)
  rw [encodeCd_toNat, encodeRsv_toNat, hpol]
  simp only [wordTLow, wordX, wordY, wordPayload, BitVec.extractLsb'_toNat, Nat.shiftRight_eq_div_pow]
  omega

/-- R72: a word with a CD tag is encoded again from its fields. -/
theorem encodeCd_fields {pol : Polarity} {w : Word} (htag : wordTag w = pol.bit.setWidth 4) :
    encodeCd pol (wordTLow w) (wordX w) (wordY w) = w := by
  rw [encodeCd_fields_eq_encodeRsv, ← htag, encodeRsv_tag_payload]

/-- A word with a given tag is encoded again from that tag and its payload (R74). -/
theorem encodeRsv_payload {tag : BitVec 4} {w : Word} (htag : wordTag w = tag) :
    encodeRsv tag (wordPayload w) = w := by
  rw [← htag, encodeRsv_tag_payload]

/-! ## Decoding encoded words -/

@[simp] theorem decodeEvt2_encodeCd_off (t : BitVec 6) (x y : BitVec 11) :
    decodeEvt2 (encodeCd .off t x y) = .cdOff t x y := by
  simp [decodeEvt2, Polarity.bit]

@[simp] theorem decodeEvt2_encodeCd_on (t : BitVec 6) (x y : BitVec 11) :
    decodeEvt2 (encodeCd .on t x y) = .cdOn t x y := by
  simp [decodeEvt2, Polarity.bit]

@[simp] theorem decodeEvt2_encodeTh (h : BitVec 28) : decodeEvt2 (encodeTh h) = .timeHigh h := by
  simp [decodeEvt2]

/-! ## Frames -/

/-- R51, R70: the frame of a word decodes as the word. -/
theorem decode_wordFrame (w : Word) : decode (wordFrame w) = .ok (decodeEvt2 w) := by
  simp only [decode, wordFrame, bytesOfWord, le32_bytes]

/-- The frame of a command decodes by its code (R80; log 6). -/
theorem decode_commandFrame (cmd : BitVec 3) (operand : List Byte) :
    decode (commandFrame cmd operand) = decodeCommand cmd operand := by
  have hcode : (cmd.setWidth 8).setWidth 3 = cmd := by simp
  simp only [decode, commandFrame, hcode]

/-! ## Events of an INGEST operand (log 6) -/

/-- The first word of an event of an INGEST operand. -/
def eventWord (ev : CDEvent) : Word :=
  (ev.polarity.bit.setWidth 32 <<< 22) ||| (ev.x.setWidth 32 <<< 11) ||| ev.y.setWidth 32

theorem encodeEvent_eq (ev : CDEvent) :
    encodeEvent ev = bytesOfWord (eventWord ev) ++ bytesOfTicks ev.timestamp := rfl

@[simp] theorem wordX_eventWord (ev : CDEvent) : wordX (eventWord ev) = ev.x := by
  ext i hi
  simp only [wordX, eventWord]
  interval_cases i <;> simp

@[simp] theorem wordY_eventWord (ev : CDEvent) : wordY (eventWord ev) = ev.y := by
  ext i hi
  simp only [wordY, eventWord]
  interval_cases i <;> simp

@[simp] theorem eventWord_polarity (ev : CDEvent) : (eventWord ev).extractLsb' 22 1 = ev.polarity.bit := by
  ext i hi
  simp only [eventWord]
  interval_cases i
  simp

@[simp] theorem eventWord_reserved (ev : CDEvent) : (eventWord ev).extractLsb' 23 9 = 0 := by
  ext i hi
  simp only [eventWord]
  interval_cases i <;> simp

/-- R32: the polarity bit says which polarity. -/
theorem polarity_of_bit (pol : Polarity) : (if pol.bit = 1#1 then Polarity.on else Polarity.off) = pol := by
  cases pol <;> rfl

/-- One event is read back from its first word and the halves of its timestamp. -/
theorem decodeEvent_eventWord (ev : CDEvent) :
    decodeEvent (eventWord ev) (ev.timestamp.extractLsb' 0 32) (ev.timestamp.extractLsb' 32 32) = .ok ev := by
  rw [decodeEvent, if_pos (eventWord_reserved ev), wordX_eventWord, wordY_eventWord, eventWord_polarity,
    polarity_of_bit, le64_halves]

/-- The events of an INGEST operand are read back in order. -/
theorem decodeEvents_encodeEvent (events : List CDEvent) : decodeEvents (events.flatMap encodeEvent) = .ok events := by
  induction events with
  | nil => rfl
  | cons ev evs ih =>
    simp only [List.flatMap_cons, encodeEvent_eq, bytesOfTicks, bytesOfWord, List.cons_append, List.nil_append,
      decodeEvents, le32_bytes, decodeEvent_eventWord, ih]

/-! ## Command codes -/

/-- R80: what the decoder answers when a command holds a transaction, code by code. -/
theorem decodeCommand_ok_cases {cmd : BitVec 3} {operand : List Byte} {i : Instr}
    (h : decodeCommand cmd operand = .ok i) :
    (cmd.toNat = 0b000 ∧ i = .cmdRsv0) ∨ (cmd.toNat = 0b001 ∧ ∃ w, i = .decodeWord w) ∨
    (cmd.toNat = 0b010 ∧ i = .decodeChunk operand) ∨ (cmd.toNat = 0b011 ∧ ∃ evs, i = .ingest evs) ∨
    (cmd.toNat = 0b100 ∧ ∃ now, i = .snapshot now) ∨ (cmd.toNat = 0b101 ∧ i = .reset) ∨
    (cmd.toNat = 0b110 ∧ i = .cmdRsv6) ∨ (cmd.toNat = 0b111 ∧ i = .cmdRsv7) := by
  have hlt := cmd.isLt
  unfold decodeCommand at h
  split at h
  next hcode => cases h; simp [hcode]
  next hcode => split at h <;> cases h; simp [hcode]
  next hcode => cases h; simp [hcode]
  next hcode => split at h <;> cases h; simp [hcode]
  next hcode => split at h <;> cases h; simp [hcode]
  next hcode => split at h <;> cases h; simp [hcode]
  next hcode => cases h; simp [hcode]
  next =>
    have hcode : cmd.toNat = 7 := by
      simp only [imp_false] at *
      omega
    cases h
    simp [hcode]

/-- R80, code 0b001: the operand of DECODE_WORD is read back. -/
theorem decodeCommand_word (w : Word) : decodeCommand 0b001 (bytesOfWord w) = .ok (.decodeWord w) := by
  change Except.ok (Instr.decodeWord (le32 _ _ _ _)) = _
  rw [le32_bytes]

/-- R80, code 0b011: the operand of INGEST is read back. -/
theorem decodeCommand_events (events : List CDEvent) :
    decodeCommand 0b011 (events.flatMap encodeEvent) = .ok (.ingest events) := by
  simp [decodeCommand, decodeEvents_encodeEvent]

/-- R80, code 0b100: the operand of SNAPSHOT is read back. -/
theorem decodeCommand_ticks (now : Ticks) : decodeCommand 0b100 (bytesOfTicks now) = .ok (.snapshot now) := by
  change Except.ok (Instr.snapshot (le64 (le32 _ _ _ _) (le32 _ _ _ _))) = _
  rw [le32_bytes, le32_bytes, le64_halves]

/-! ## The opcode map -/

/-- The row of a tag: the map lists its rows in the order of their tags (R79). -/
def rowOfTag (t : BitVec 4) : OpcodeRow := opcodeRows.get ⟨t.toNat, t.isLt⟩

theorem mem_opcodeRows_iff {r : OpcodeRow} : r ∈ opcodeRows ↔ ∃ t, rowOfTag t = r := by
  rw [List.mem_iff_get]
  constructor
  · rintro ⟨k, rfl⟩
    exact ⟨BitVec.ofFin k, rfl⟩
  · rintro ⟨t, rfl⟩
    exact ⟨_, rfl⟩

/-- R79: all rows have one mask. -/
@[simp] theorem rowOfTag_mask (t : BitVec 4) : (rowOfTag t).mask = 0xF0000000 := by
  revert t
  decide

/-- R79: a row's match value is its tag with no payload. -/
@[simp] theorem rowOfTag_value (t : BitVec 4) : (rowOfTag t).value = encodeRsv t 0 := by
  revert t
  decide

/-- R71, R79: the mask keeps a word's tag alone. -/
theorem and_tagMask (w : Word) : w &&& 0xF0000000 = encodeRsv (wordTag w) 0 := by
  have htag : wordTag (w &&& 0xF0000000) = wordTag w :=
    BitVec.extractLsb'_and.trans (BitVec.and_allOnes (x := wordTag w))
  have hpayload : wordPayload (w &&& 0xF0000000) = 0 :=
    BitVec.extractLsb'_and.trans (BitVec.and_zero (x := wordPayload w))
  rw [← encodeRsv_tag_payload (w &&& 0xF0000000), htag, hpayload]

/-- R79: a word matches the row of its tag and no other. -/
theorem rowOfTag_matches_iff (t : BitVec 4) (w : Word) : (rowOfTag t).Matches w ↔ wordTag w = t := by
  rw [OpcodeRow.Matches, rowOfTag_mask, rowOfTag_value, and_tagMask]
  constructor
  · intro h
    simpa using congrArg wordTag h
  · rintro rfl
    rfl

/-- R77, R79: the row of a word's tag names the instruction the word decodes to. -/
theorem mnemonic_decodeEvt2 (w : Word) : (decodeEvt2 w).mnemonic = (rowOfTag (wordTag w)).mnemonic := by
  rcases decodeEvt2_cases w with h | h | h | h | h | h | h | h | h | h | h | h | h | h | h | h <;>
    rw [h.2, h.1] <;> rfl

end Sys2Proof

namespace Sys2Proof.Machine

/-! ## The encoding statements -/

/-- Settles O1: each word is decoded from its own tag and fields, and each command from its own code and operand. -/
theorem decodeOfEncodeIsIdentity : Obligations.DecodeOfEncodeIsIdentity := by
  have word {w : Word} {i : Instr} (h : decodeEvt2 w = i) : decode (wordFrame w) = .ok i :=
    h ▸ decode_wordFrame w
  intro i
  cases i with
  | cdOff t x y => exact word (decodeEvt2_encodeCd_off t x y)
  | cdOn t x y => exact word (decodeEvt2_encodeCd_on t x y)
  | timeHigh h => exact word (decodeEvt2_encodeTh h)
  | rsv2 p | rsv3 p | rsv4 p | rsv5 p | rsv6 p | rsv7 p | rsv9 p | rsvA p | rsvB p | rsvC p | rsvD p | rsvE p
  | rsvF p => exact word (by simp [decodeEvt2])
  | decodeWord w =>
    rw [encode, decode_commandFrame]
    exact decodeCommand_word w
  | decodeChunk bytes => exact decode_commandFrame _ _
  | ingest events =>
    rw [encode, decode_commandFrame]
    exact decodeCommand_events events
  | snapshot now =>
    rw [encode, decode_commandFrame]
    exact decodeCommand_ticks now
  | reset | cmdRsv0 | cmdRsv6 | cmdRsv7 => exact decode_commandFrame _ _

/-- Settles O2: the fields read back from their places, and the worked words are read off. -/
theorem eventWordsRoundTrip : Obligations.EventWordsRoundTrip := by
  refine ⟨fun pol t x y => ⟨encodeCd_toNat pol t x y, ?_⟩, fun h => ⟨?_, decodeEvt2_encodeTh h⟩, ?_⟩
  · cases pol with
    | off => exact decodeEvt2_encodeCd_off t x y
    | on => exact decodeEvt2_encodeCd_on t x y
  · exact (congrArg BitVec.toNat (encodeTh_eq_encodeRsv h)).trans (encodeRsv_toNat 0x8#4 h)
  · decide

/-- Settles O3: a word is its tag and payload, and a CD word's payload is its three fields. -/
theorem encodeOfDecodedWordIsTheWord : Obligations.EncodeOfDecodedWordIsTheWord := by
  intro w
  obtain ⟨htag, hdecode⟩ | ⟨htag, hdecode⟩ | hpayload := decodeEvt2_cases w
  · rw [hdecode]
    exact congrArg wordFrame (encodeCd_fields (pol := .off) htag)
  · rw [hdecode]
    exact congrArg wordFrame (encodeCd_fields (pol := .on) htag)
  · rcases hpayload with h | h | h | h | h | h | h | h | h | h | h | h | h | h
    on_goal 7 =>
      rw [h.2, encode, encodeTh_eq_encodeRsv, encodeRsv_payload h.1]
    all_goals
      rw [h.2]
      exact congrArg wordFrame (encodeRsv_payload h.1)

/-- Settles O4: the row of a word's tag. -/
theorem opcodeRowsPartitionTheWords : Obligations.OpcodeRowsPartitionTheWords := by
  refine ⟨by decide, ?_, fun w => ⟨rowOfTag (wordTag w), mem_opcodeRows_iff.2 ⟨_, rfl⟩,
    (rowOfTag_matches_iff _ w).2 rfl, mnemonic_decodeEvt2 w, ?_⟩⟩
  · intro r hr
    obtain ⟨t, rfl⟩ := mem_opcodeRows_iff.1 hr
    exact rowOfTag_mask t
  · intro r hr hmatch
    obtain ⟨t, rfl⟩ := mem_opcodeRows_iff.1 hr
    rw [(rowOfTag_matches_iff t w).1 hmatch]

/-- Settles O6: six closed words, decoded. -/
theorem sampleWordsDecode : Obligations.SampleWordsDecode := by
  unfold Obligations.SampleWordsDecode
  decide

/-- Settles O7: the code is the first byte modulo 8, and each code's arm answers its own transaction alone. -/
theorem commandCodeSelectsTransaction : Obligations.CommandCodeSelectsTransaction := by
  intro code operand i hdecode
  have hcode : (code.setWidth 3).toNat = code.toNat % 8 := BitVec.toNat_setWidth 3 code
  rw [← hcode]
  obtain ⟨hc, rfl⟩ | ⟨hc, _, rfl⟩ | ⟨hc, rfl⟩ | ⟨hc, _, rfl⟩ | ⟨hc, _, rfl⟩ | ⟨hc, rfl⟩ | ⟨hc, rfl⟩ | ⟨hc, rfl⟩ :=
    decodeCommand_ok_cases hdecode <;> rw [hc] <;> rfl

/-! ## Refusals -/

/-- An unmarked machine refuses a first pending frame that holds no instruction (log 16). -/
theorem step_of_decode_error {s : State} {f : Frame} {rest : List Frame} {e : DecodeError} (hm : s.mark = none)
    (hinput : s.input = f :: rest) (herror : decode f = .error e) : step s = .refused (.malformedFrame e) := by
  simp only [step, fetch, hm, hinput, herror]

/-- Settles O11: the step's equation for a frame that does not decode. -/
theorem malformedFrameIsRefused : Obligations.MalformedFrameIsRefused :=
  fun _ _ _ _ hm hinput herror => step_of_decode_error hm hinput herror

/-- R178: a refused transaction of an unmarked machine sets the mark and writes nothing else. -/
theorem transact_of_exec_refused {i : Instr} {s : State} {r : Refusal} (hm : s.mark = none)
    (hrefused : exec i s = .refused r) : transact i s = { s with mark := some (.refusal r) } := by
  rw [transact, hm, hrefused]
  rfl

/-- Settles O13: each reserved code is refused (`exec_reserved`), and a refusal writes the mark alone. -/
theorem reservedCommandsAreRefused : Obligations.ReservedCommandsAreRefused := by
  intro s i hi hm
  obtain ⟨hrsv0, hrsv6, hrsv7⟩ := exec_reserved s
  have hrefused : exec i s = .refused .refuseCmd := by
    obtain rfl | rfl | rfl := hi
    · exact hrsv0
    · exact hrsv6
    · exact hrsv7
  exact ⟨hrefused, transact_of_exec_refused hm hrefused⟩

/-! ## Assembler lines -/

theorem assembleCd_of_range (pol : Polarity) {x y t : Nat} (hx : x ≤ 2047) (hy : y ≤ 2047) (ht : t ≤ 63) :
    assembleCd pol x y t = some (encodeCd pol (BitVec.ofNat 6 t) (BitVec.ofNat 11 x) (BitVec.ofNat 11 y)) :=
  if_pos ⟨hx, hy, ht⟩

theorem assembleTh_of_lt {h : Nat} (hlt : h < 2 ^ 28) : assembleTh h = some (encodeTh (BitVec.ofNat 28 h)) :=
  if_pos hlt

theorem assembleRsv_of_range {tag p : Nat} (htag : tag ∈ reservedTags) (hp : p < 2 ^ 28) :
    assembleRsv tag p = some (encodeRsv (BitVec.ofNat 4 tag) (BitVec.ofNat 28 p)) :=
  if_pos ⟨htag, hp⟩

/-- R82: fields of their encoded widths are in range, and the CD line is their word. -/
theorem assembleCd_toNat (pol : Polarity) (x y : BitVec 11) (t : BitVec 6) :
    assembleCd pol x.toNat y.toNat t.toNat = some (encodeCd pol t x y) := by
  rw [assembleCd_of_range pol (by omega) (by omega) (by omega)]
  simp only [BitVec.ofNat_toNat, BitVec.setWidth_eq]

theorem assembleTh_toNat (h : BitVec 28) : assembleTh h.toNat = some (encodeTh h) := by
  rw [assembleTh_of_lt h.isLt, BitVec.ofNat_toNat, BitVec.setWidth_eq]

/-- R82: the RSV line's word as a number. -/
theorem assembleRsv_eq_ofNat {tag : Nat} (htag : tag ∈ reservedTags) (p : BitVec 28) :
    assembleRsv tag p.toNat = some (BitVec.ofNat 32 (tag * 2 ^ 28 + p.toNat)) := by
  have hlt : tag < 2 ^ 4 := (show ∀ t ∈ reservedTags, t < 2 ^ 4 by decide) tag htag
  have hword : encodeRsv (BitVec.ofNat 4 tag) p = BitVec.ofNat 32 (tag * 2 ^ 28 + p.toNat) := by
    apply BitVec.eq_of_toNat_eq
    rw [encodeRsv_toNat, BitVec.toNat_ofNat, BitVec.toNat_ofNat, Nat.mod_eq_of_lt hlt, Nat.mod_eq_of_lt (by omega)]
  rw [assembleRsv_of_range htag p.isLt, BitVec.ofNat_toNat, BitVec.setWidth_eq, hword]

/-- R82: what assembles under a check assembles exactly when the check holds. -/
theorem isSome_ite_eq_decide {α : Type} (p : Prop) [Decidable p] (a : α) :
    (if p then some a else none).isSome = decide p := by
  rw [Bool.eq_iff_iff, Option.isSome_ite, decide_eq_true_iff]

/-- R82: raw bytes assemble to themselves. -/
theorem assembleLine_byte_toNat (bs : List Byte) : assembleLine (.byte (bs.map (·.toNat))) = some bs := by
  have hrange : ∀ b ∈ bs.map (·.toNat), b < 256 := by
    intro b hb
    obtain ⟨byte, -, rfl⟩ := List.mem_map.1 hb
    exact byte.isLt
  have hback : (bs.map (·.toNat)).map (BitVec.ofNat 8) = bs := by simp [Function.comp_def]
  rw [assembleLine, if_pos hrange, hback]

/-- Settles O57: a line is its check and its word, and the word of operands in range is the encoder's. -/
theorem assemblerEncodesInRangeLinesOnly : Obligations.AssemblerEncodesInRangeLinesOnly := by
  refine ⟨fun x y t => ?_, fun x y t => ?_, fun x y t => ?_, fun x y t => ?_, fun h => ?_, fun h => ?_,
    fun tag p => ?_, fun tag p htag => ?_, fun w => isSome_ite_eq_decide _ _, fun w => ?_, assembleLine_byte_toNat⟩
  · rw [assembleLine, Option.isSome_map]; exact isSome_ite_eq_decide _ _
  · rw [assembleLine, Option.isSome_map]; exact isSome_ite_eq_decide _ _
  · rw [assembleLine, assembleCd_toNat]; rfl
  · rw [assembleLine, assembleCd_toNat]; rfl
  · rw [assembleLine, Option.isSome_map]; exact isSome_ite_eq_decide _ _
  · rw [assembleLine, assembleTh_toNat]; rfl
  · rw [assembleLine, Option.isSome_map]; exact isSome_ite_eq_decide _ _
  · rw [assembleLine, assembleRsv_eq_ofNat htag]; rfl
  · rw [assembleLine, if_pos w.isLt, BitVec.ofNat_toNat, BitVec.setWidth_eq]

/-! ## Pseudo-instructions -/

/-- R83: EV is the TH word of T[33:6], then the CD word of T[5:0]. -/
theorem assembleEv_of_range (pol : Polarity) {x y ts : Nat} (hx : x ≤ 2047) (hy : y ≤ 2047) (hts : ts < 2 ^ 34) :
    assembleEv pol x y ts = some [encodeTh (BitVec.ofNat 28 (ts / 64)),
      encodeCd pol (BitVec.ofNat 6 (ts % 64)) (BitVec.ofNat 11 x) (BitVec.ofNat 11 y)] := by
  rw [assembleEv, if_pos hts, assembleTh_of_lt (by omega), assembleCd_of_range pol hx hy (by omega)]

/-- R75, R83: T[33:6] and T[5:0] assemble to T. -/
theorem timestamp_split {ts : Nat} (hts : ts < 2 ^ 34) :
    timestamp (BitVec.ofNat 28 (ts / 64)) (BitVec.ofNat 6 (ts % 64)) = BitVec.ofNat 64 ts := by
  rw [timestamp_eq_ofNat, BitVec.toNat_ofNat, BitVec.toNat_ofNat]
  congr 1
  omega

/-- R103, R101, R102: a TIME_HIGH word and a CD word give one event under the loaded payload. -/
theorem stepWords_th_cd (th h : BitVec 28) (pol : Polarity) (l : BitVec 6) (x y : BitVec 11) :
    stepWords th [encodeTh h, encodeCd pol l x y] = (h, [cdEvent pol h l x y]) := by
  simp [stepWords_cons]

/-- R104: a word that loads and emits nothing leaves the whole state as it was. -/
theorem applyWord_none (s : State) : s.applyWord (s.dec.timeHigh, none) = s := by
  have hout : s.out ++ (none : Option CDEvent).toList = s.out := List.append_nil _
  simp only [State.applyWord, State.emit, State.withDec, Decoder.setTimeHigh, hout]

/-- R83: PROCESS is DECODE_CHUNK, then INGEST of the list it returned. -/
theorem process_of_decodeChunk {bytes : List Byte} {s t : State} (h : exec (.decodeChunk bytes) s = .next t) :
    process bytes s = exec (.ingest t.out) t := by
  rw [process, h]

/-- Settles O56: EV's two words step to one event with the timestamp put together again; NOPW is a word of tag 0xF; and
DECODE_CHUNK returns the list it leaves as its output. -/
theorem pseudoInstructionsExpand : Obligations.PseudoInstructionsExpand := by
  refine ⟨fun pol x y ts s _ hx hy hts hcarry => ⟨?_, _, exec_decodeChunk _ s, ?_, ?_⟩, rfl, rfl, fun s _ => ?_,
    fun bytes s _ => ⟨_, _, exec_decodeChunk bytes s, rfl, process_of_decodeChunk (exec_decodeChunk bytes s)⟩⟩
  · rw [assembleLine, assembleEv_of_range pol hx hy hts]
    rfl
  · rw [state_respond_out, state_withOut_out, decodeChunk_words hcarry, stepWords_th_cd, cdEvent, timestamp_split hts]
  · rw [state_respond_dec, state_withOut_dec, state_withDec_dec, decodeChunk_words hcarry, stepWords_th_cd,
      decoder_setTimeHigh_timeHigh, BitVec.toNat_ofNat, Nat.mod_eq_of_lt (by omega)]
  · rw [exec_word]
    exact congrArg Host.Outcome.next (applyWord_none s)

end Sys2Proof.Machine
end

section
/-! PROOFS. The family of spec/40_decoder.md: what each word does (R101 to R104), timestamps (R109 to R111), the
decoder's two transactions (R105 to R108), trailing bytes (R112), cuts of a stream (R113), and that the decoder never
fails (R114). -/

namespace Sys2Proof.Machine

/-! ## What one word and a list of words do -/

/-- R101, R102, R104: a word that is no TIME_HIGH word keeps time_high. -/
theorem stepWord_timeHigh_of_ne {w : Word} (hw : wordTag w ≠ 0x8#4) (th : BitVec 28) : (stepWord th w).1 = th := by
  obtain ⟨-, h⟩ | ⟨-, h⟩ | ⟨h8, -⟩ | ⟨-, -, -, h⟩ := stepWord_cases th w
  · rw [h]
  · rw [h]
  · exact absurd h8 hw
  · rw [h]

/-- R111: words without a TIME_HIGH word among them keep time_high. -/
theorem stepWords_timeHigh_of_ne {ws : List Word} (hws : ∀ w ∈ ws, wordTag w ≠ 0x8#4) (th : BitVec 28) :
    (stepWords th ws).1 = th := by
  induction ws with
  | nil => rfl
  | cons w ws ih =>
    obtain ⟨hw, hws⟩ := List.forall_mem_cons.1 hws
    rw [stepWords_cons, stepWord_timeHigh_of_ne hw]
    exact ih hws

/-- R101, R102: a CD word emits one event, with the polarity, column and row of the word; any other word none. -/
theorem stepWord_eventKey (th : BitVec 28) (w : Word) : (stepWord th w).2.map eventKey = cdKey w := by
  obtain ⟨h0, h⟩ | ⟨h1, h⟩ | ⟨h8, h⟩ | ⟨h0, h1, -, h⟩ := stepWord_cases th w
  · rw [h, cdKey, if_pos h0]; rfl
  · rw [h, cdKey, h1]; rfl
  · rw [h, cdKey, h8]; rfl
  · rw [h, cdKey, if_neg h0, if_neg h1]; rfl

/-- R108: the events of a list of words are those of its CD words, in order. -/
theorem stepWords_eventKey (th : BitVec 28) (ws : List Word) :
    (stepWords th ws).2.map eventKey = ws.filterMap cdKey := by
  induction ws generalizing th with
  | nil => rfl
  | cons w ws ih =>
    have hw : (stepWord th w).2.toList.map eventKey = (cdKey w).toList := by
      rw [← stepWord_eventKey th w, Option.toList_map]
    rw [stepWords_cons, List.map_append, hw, ih, List.filterMap_cons]
    cases cdKey w <;> rfl

/-- R109, R110: without a TIME_HIGH word, every CD word of a list takes its timestamp from the same time_high. -/
theorem stepWords_timestamps {ws : List Word} (hws : ∀ w ∈ ws, wordTag w ≠ 0x8#4) (th : BitVec 28) :
    (stepWords th ws).2.map (fun ev => ev.timestamp.toNat) =
      (ws.filter fun w => wordTag w = 0x0#4 ∨ wordTag w = 0x1#4).map fun w => th.toNat * 64 + (wordTLow w).toNat := by
  induction ws with
  | nil => rfl
  | cons w ws ih =>
    obtain ⟨hw, hws⟩ := List.forall_mem_cons.1 hws
    rw [stepWords_cons, stepWord_timeHigh_of_ne hw, List.map_append, ih hws]
    obtain ⟨h0, h⟩ | ⟨h1, h⟩ | ⟨h8, -⟩ | ⟨h0, h1, -, h⟩ := stepWord_cases th w
    · simp [h, h0, cdEvent, timestamp_toNat]
    · simp [h, h1, cdEvent, timestamp_toNat]
    · exact absurd h8 hw
    · simp [h, h0, h1]

/-! ## Timestamps -/

/-- Settles O21: the high part counts 64 each, which no difference of the low parts makes up. -/
theorem timestampIsHighTimes64PlusLow : Obligations.TimestampIsHighTimes64PlusLow := by
  refine ⟨fun th t => ⟨timestamp_toNat th t, timestamp_lt th t⟩, fun th th' t t' h => ?_, fun th t t' h => ?_⟩
  · rw [timestamp_toNat, timestamp_toNat]
    omega
  · rw [timestamp_toNat, timestamp_toNat]
    omega

/-! ## DECODE_WORD -/

/-- Settles O22: both run the word's arm of `step_word`, whose event, if any, is all of the fresh output sequence. -/
theorem decodeWordIsTheWordAndAResponse : Obligations.DecodeWordIsTheWordAndAResponse := by
  intro w s _
  refine ⟨_, exec_word w _, rfl, ?_, ?_⟩
  · rw [state_applyWord_out, List.nil_append]
    exact Option.length_toList_le
  · rw [state_applyWord_out, List.nil_append, Option.head?_toList]
    rfl

/-! ## DECODE_CHUNK -/

/-- R106, R107: under either policy the events are those of the words the buffer completes. -/
theorem decodeChunk_events (d : Decoder) (bytes : List Byte) :
    (d.decodeChunk bytes).2 = (stepWords d.timeHigh (splitWords (chunkBuffer d bytes)).1).2 := by
  cases hp : d.carryPolicy with
  | carry => rw [decodeChunk_carry hp, chunkBuffer, hp]; rfl
  | drop => rw [decodeChunk_drop hp, chunkBuffer, hp]; rfl

/-- DECODE_CHUNK on a block whose decoder's result is known (R106, R107). -/
theorem exec_decodeChunk_of_eq {s : State} {bytes : List Byte} {d : Decoder} {evs : List CDEvent}
    (h : s.dec.decodeChunk bytes = (d, evs)) :
    exec (.decodeChunk bytes) s = .next (((s.withDec d).withOut evs).respond (.chunk evs)) := by
  rw [exec_decodeChunk, h]

/-- Settles O23: the words and the tail are those the buffer is cut into. -/
theorem decodeChunkUnderCarry : Obligations.DecodeChunkUnderCarry := by
  intro bytes s _ hp
  obtain ⟨hcut, htail⟩ := splitWords_spec (s.dec.carry ++ bytes)
  refine ⟨_, _, hcut, htail, ?_⟩
  rw [exec_decodeChunk, decodeChunk_carry hp]
  rfl

/-- Settles O24: the words and the tail are those the chunk is cut into. -/
theorem decodeChunkUnderDrop : Obligations.DecodeChunkUnderDrop := by
  intro bytes s _ hp
  obtain ⟨hcut, htail⟩ := splitWords_spec bytes
  refine ⟨_, _, hcut, htail, ?_⟩
  rw [exec_decodeChunk, decodeChunk_drop hp]
  rfl

/-- Settles O25: the chunk's events are those of the words its buffer completes (`stepWords_eventKey`). -/
theorem chunkReturnsItsCdEventsInOrder : Obligations.ChunkReturnsItsCdEventsInOrder := by
  intro bytes s _
  obtain ⟨hcut, htail⟩ := splitWords_spec (chunkBuffer s.dec bytes)
  refine ⟨_, _, _, exec_decodeChunk bytes s, hcut, htail, rfl, ?_⟩
  rw [state_respond_out, state_withOut_out, decodeChunk_events]
  exact stepWords_eventKey _ _

/-- Settles O27: a constructed decoder has time_high 0 and an empty carry. -/
theorem cdBeforeAnyTimeHighUsesZero : Obligations.CdBeforeAnyTimeHighUsesZero := by
  intro cfg now0 ws hws
  refine ⟨_, exec_decodeChunk_of_eq (decodeChunk_words rfl ws), stepWords_timeHigh_of_ne hws 0, ?_⟩
  exact (stepWords_timestamps hws 0).trans (List.map_congr_left fun w _ => Nat.zero_add _)

/-! ## time_high between transactions -/

/-- The transactions of R111 that load no time_high: a painter transaction, or words none of which is TIME_HIGH. -/
def LoadsNoTimeHigh (i : Instr) : Prop :=
  forPainter i = true ∨ (∃ w, i = .decodeWord w ∧ wordTag w ≠ 0x8#4) ∨
    ∃ ws : List Word, i = .decodeChunk (ws.flatMap bytesOfWord) ∧ ∀ w ∈ ws, wordTag w ≠ 0x8#4

/-- From an empty carry, a transaction that loads no time_high leaves the decoder as it was. -/
theorem exec_loadsNoTimeHigh_dec {i : Instr} {s t : State} (hi : LoadsNoTimeHigh i) (hcarry : s.dec.carry = [])
    (hx : exec i s = .next t) : t.dec = s.dec := by
  obtain hp | ⟨w, rfl, hw⟩ | ⟨ws, rfl, hws⟩ := hi
  · obtain ⟨completes, next, hcompletes, hnext⟩ := exec_forPainter hp
    obtain ⟨t', hx', -, hdec, -⟩ := hnext s (hcompletes s t hx)
    cases hx.symm.trans hx'
    exact hdec
  · rw [exec_decodeWord] at hx
    cases hx
    simp only [state_respond_dec, state_withOut_dec, state_withDec_dec, Decoder.decodeWord,
      stepWord_timeHigh_of_ne hw]
    rfl
  · rw [exec_decodeChunk, decodeChunk_words hcarry, stepWords_timeHigh_of_ne hws] at hx
    cases hx
    rfl

theorem execAll_loadsNoTimeHigh_dec {is : List Instr} {s t : State} (his : ∀ i ∈ is, LoadsNoTimeHigh i)
    (hcarry : s.dec.carry = []) (hx : execAll is s = .next t) : t.dec = s.dec := by
  induction is generalizing s with
  | nil => cases hx; rfl
  | cons i is ih =>
    obtain ⟨hi, his⟩ := List.forall_mem_cons.1 his
    obtain ⟨u, hu, hrest⟩ := execAll_cons_next hx
    have hdec := exec_loadsNoTimeHigh_dec hi hcarry hu
    rw [ih his (hdec ▸ hcarry) hrest, hdec]

/-- R103, R105: DECODE_WORD of a TIME_HIGH word loads its payload. -/
theorem decodeWord_encodeTh (d : Decoder) (h : BitVec 28) : d.decodeWord (encodeTh h) = (d.setTimeHigh h, none) := by
  rw [Decoder.decodeWord, stepWord_encodeTh]

/-- R101, R102, R105: DECODE_WORD of a CD word returns its event and leaves the decoder as it was. -/
theorem decodeWord_encodeCd (d : Decoder) (pol : Polarity) (l : BitVec 6) (x y : BitVec 11) :
    d.decodeWord (encodeCd pol l x y) = (d, some (cdEvent pol d.timeHigh l x y)) := by
  rw [Decoder.decodeWord, stepWord_encodeCd]
  rfl

/-- Settles O28: the first transaction loads time_high, and those between leave the decoder as it was. -/
theorem timeHighPersistsAcrossTransactions : Obligations.TimeHighPersistsAcrossTransactions := by
  intro h between pol l x y s t _ hcarry hbetween hx
  obtain ⟨u, hu, hrest⟩ := execAll_cons_next hx
  rw [exec_decodeWord, decodeWord_encodeTh] at hu
  cases hu
  have hdec := execAll_loadsNoTimeHigh_dec hbetween (by exact hcarry) hrest
  have hth : t.dec.timeHigh = h := congrArg Decoder.timeHigh hdec
  refine ⟨hth, ?_⟩
  rw [exec_decodeWord, decodeWord_encodeCd, cdEvent, hth, timestamp_eq_ofNat]
  rfl

/-! ## Trailing bytes -/

/-- What a policy leaves in an empty carry of the bytes that complete no word (R106, R107). -/
def keptTail : CarryPolicy → List Byte → List Byte
  | .carry, tail => tail
  | .drop, _ => []

/-- R112: from an empty carry, a short tail after whole words changes dec.carry alone. -/
theorem decodeChunk_words_tail {d : Decoder} (hcarry : d.carry = []) (ws : List Word) {tail : List Byte}
    (htail : tail.length < 4) :
    d.decodeChunk (ws.flatMap bytesOfWord ++ tail) =
      ((d.setTimeHigh (stepWords d.timeHigh ws).1).setCarry (keptTail d.carryPolicy tail),
        (stepWords d.timeHigh ws).2) := by
  cases hp : d.carryPolicy with
  | carry => rw [decodeChunk_carry hp, Decoder.chunkCarry, hcarry, List.nil_append, splitWords_words ws htail]; rfl
  | drop =>
    rw [decodeChunk_drop hp, Decoder.chunkDrop, splitWords_words ws htail, keptTail, ← hcarry]
    rfl

/-- R112: a short tail alone, from an empty carry, emits nothing and changes dec.carry alone. -/
theorem decodeChunk_short {d : Decoder} (hcarry : d.carry = []) {tail : List Byte} (htail : tail.length < 4) :
    d.decodeChunk tail = (d.setCarry (keptTail d.carryPolicy tail), []) :=
  decodeChunk_words_tail hcarry [] htail

/-- Settles O29: the three chunks are whole words, whole words with the tail, and the tail alone. -/
theorem trailingBytesDecodeNothing : Obligations.TrailingBytesDecodeNothing := by
  intro ws extra s _ hcarry hextra
  have htail : extra.length < 4 := Nat.lt_succ_of_le hextra
  have hafter := decodeChunk_short (d := s.dec.setTimeHigh (stepWords s.dec.timeHigh ws).1) hcarry htail
  refine ⟨_, _, _, exec_decodeChunk_of_eq (decodeChunk_words hcarry ws),
    exec_decodeChunk_of_eq (decodeChunk_words_tail hcarry ws htail),
    exec_decodeChunk_of_eq hafter, rfl, rfl, rfl, rfl, fun hp => ?_, fun hp => ?_⟩
  · simp [hp, keptTail]
  · simp [hp, keptTail]

/-! ## Cuts of a stream -/

/-- R52: bytes that are whole words leave no tail. -/
theorem splitWords_tail_of_whole {bytes : List Byte} (h : bytes.length % 4 = 0) : (splitWords bytes).2 = [] := by
  obtain ⟨hcut, htail⟩ := splitWords_spec bytes
  have hlen : bytes.length = (splitWords bytes).1.length * 4 + (splitWords bytes).2.length := by
    conv_lhs => rw [hcut]
    simp [List.length_flatMap]
  exact List.eq_nil_of_length_eq_zero (by omega)

/-- R106, R107: an empty chunk emits nothing and leaves the decoder as it was. -/
theorem decodeChunk_nil {d : Decoder} (h : d.Inv) : d.decodeChunk [] = (d, []) := by
  cases hp : d.carryPolicy with
  | carry =>
    rw [decodeChunk_carry hp, Decoder.chunkCarry, List.append_nil, splitWords_short (Nat.lt_succ_of_le h.carry_short)]
    rfl
  | drop => rw [decodeChunk_drop hp]; rfl

/-- R113: a chunk may be cut where its front part leaves no bytes that the policy would discard before more come. -/
theorem decodeChunk_append {d : Decoder} {xs ys : List Byte}
    (hcut : d.carryPolicy = .carry ∨ xs.length % 4 = 0 ∨ ys = []) :
    d.decodeChunk (xs ++ ys) =
      (((d.decodeChunk xs).1.decodeChunk ys).1, (d.decodeChunk xs).2 ++ ((d.decodeChunk xs).1.decodeChunk ys).2) := by
  have hp' := decodeChunk_carryPolicy d xs
  cases hp : d.carryPolicy with
  | carry =>
    rw [decodeChunk_carry hp, decodeChunk_carry (hp'.trans hp), decodeChunk_carry hp]
    simp only [Decoder.chunkCarry, ← List.append_assoc, splitWords_append (d.carry ++ xs), stepWords_append,
      decoder_setCarry_timeHigh, decoder_setCarry_carry, decoder_setTimeHigh_timeHigh]
    rfl
  | drop =>
    have htail : (splitWords ((splitWords xs).2 ++ ys)).1 = (splitWords ys).1 := by
      obtain hcarry | hwhole | rfl := hcut
      · cases hp.symm.trans hcarry
      · rw [splitWords_tail_of_whole hwhole, List.nil_append]
      · rw [List.append_nil, splitWords_short (splitWords_spec xs).2]
        rfl
    rw [decodeChunk_drop hp, decodeChunk_drop (hp'.trans hp), decodeChunk_drop hp]
    simp only [Decoder.chunkDrop, splitWords_append xs, htail, stepWords_append, decoder_setTimeHigh_timeHigh]
    rfl

/-- The cuts of R113 for a policy: any under carry; under drop, every chunk but the last has whole words. -/
def CutFor (policy : CarryPolicy) (cs : List (List Byte)) : Prop :=
  policy = .carry ∨ policy = .drop ∧ ∀ c ∈ cs.dropLast, c.length % 4 = 0

/-- A cut's first chunk may be cut off, and the rest is a cut again. -/
theorem CutFor.cons {policy : CarryPolicy} {c : List Byte} {cs : List (List Byte)} (h : CutFor policy (c :: cs)) :
    (policy = .carry ∨ c.length % 4 = 0 ∨ cs.flatten = []) ∧ CutFor policy cs := by
  obtain hp | ⟨hp, hwhole⟩ := h
  · exact ⟨.inl hp, .inl hp⟩
  · cases cs with
    | nil => exact ⟨.inr (.inr rfl), .inr ⟨hp, nofun⟩⟩
    | cons c' cs =>
      obtain ⟨hc, hcs⟩ := List.forall_mem_cons.1 hwhole
      exact ⟨.inr (.inl hc), .inr ⟨hp, hcs⟩⟩

/-- R113: feeding a cut of a stream is feeding the stream as one chunk, in its events and in the decoder it leaves. -/
theorem execAll_chunks {cs : List (List Byte)} {s : State} (hinv : s.dec.Inv) (hcut : CutFor s.dec.carryPolicy cs) :
    ∃ t rs, execAll (cs.map .decodeChunk) s = .next t ∧ t.dec = (s.dec.decodeChunk cs.flatten).1 ∧
      t.responses = s.responses ++ rs ∧ rs.flatMap Response.events = (s.dec.decodeChunk cs.flatten).2 := by
  induction cs generalizing s with
  | nil =>
    rw [List.flatten_nil, decodeChunk_nil hinv]
    exact ⟨s, [], rfl, rfl, (List.append_nil _).symm, rfl⟩
  | cons c cs ih =>
    obtain ⟨hfirst, hrest⟩ := hcut.cons
    obtain ⟨u, hu, hudec, hurs⟩ : ∃ u, exec (.decodeChunk c) s = .next u ∧ u.dec = (s.dec.decodeChunk c).1 ∧
        u.responses = s.responses ++ [.chunk (s.dec.decodeChunk c).2] := ⟨_, exec_decodeChunk c s, rfl, rfl⟩
    have hpolicy : u.dec.carryPolicy = s.dec.carryPolicy := by rw [hudec, decodeChunk_carryPolicy]
    obtain ⟨t, rs, ht, hdec, hrs, hevs⟩ := ih (hudec ▸ hinv.decodeChunk c) (hpolicy ▸ hrest)
    rw [List.flatten_cons, decodeChunk_append hfirst, ← hudec]
    refine ⟨t, .chunk (s.dec.decodeChunk c).2 :: rs, (execAll_cons_of_next hu).trans ht, hdec, ?_, ?_⟩
    · rw [hrs, hurs, List.append_assoc, List.singleton_append]
    · rw [List.flatMap_cons, hevs, Response.events]

/-- A block right after construction, with the drop policy. -/
def dropping : State := constructed { Cfg.atReset with carryPolicy := .drop } 0

/-- Settles O30: both cuts are the one chunk of the whole stream (`execAll_chunks`). The counterexample under drop is a
CD_ON word whose last byte comes in a chunk of its own. -/
theorem chunkingDoesNotMatter : Obligations.ChunkingDoesNotMatter := by
  refine ⟨fun s cs1 cs2 _ hinv hsame hcut => ?_, ?_⟩
  · have hcut1 : CutFor s.dec.carryPolicy cs1 := hcut.imp_right fun ⟨hp, h1, _⟩ => ⟨hp, h1⟩
    have hcut2 : CutFor s.dec.carryPolicy cs2 := hcut.imp_right fun ⟨hp, _, h2⟩ => ⟨hp, h2⟩
    obtain ⟨t1, r1, hx1, hdec1, hr1, hevs1⟩ := execAll_chunks hinv hcut1
    obtain ⟨t2, r2, hx2, hdec2, hr2, hevs2⟩ := execAll_chunks hinv hcut2
    exact ⟨t1, t2, r1, r2, hx1, hx2, by rw [hdec1, hdec2, hsame], hr1, hr2, by rw [hevs1, hevs2, hsame]⟩
  · exact ⟨dropping, [[0x01, 0x08, 0x40], [0x10]], [[0x01, 0x08, 0x40, 0x10]], _, _, rfl, rfl, rfl, rfl, rfl, by decide⟩

/-! ## Words as instructions of their own -/

/-- Settles O18: each is the decoding of its own encoding, which steps to its one event. -/
theorem cdWordsEmitTheirEvent : Obligations.CdWordsEmitTheirEvent := by
  intro t x y s _
  refine ⟨?_, ?_⟩
  · rw [← decodeEvt2_encodeCd_off, exec_word, stepWord_encodeCd, cdEvent, timestamp_eq_ofNat]
    rfl
  · rw [← decodeEvt2_encodeCd_on, exec_word, stepWord_encodeCd, cdEvent, timestamp_eq_ofNat]
    rfl

/-- R103: a word that loads time_high and emits nothing writes the register alone. -/
theorem applyWord_load (s : State) (h : BitVec 28) :
    s.applyWord (h, none) = { s with dec := { s.dec with timeHigh := h } } :=
  applyWord_none (s.withDec (s.dec.setTimeHigh h))

/-- Settles O19: it is the decoding of its own encoding, which loads the payload and emits nothing. -/
theorem timeHighWordLoadsTheRegister : Obligations.TimeHighWordLoadsTheRegister := by
  intro h s _
  rw [← decodeEvt2_encodeTh, exec_word, stepWord_encodeTh, applyWord_load]

/-- Settles O20: every reserved word has the one arm of R104, which loads what time_high holds and emits nothing. -/
theorem reservedWordsDoNothing : Obligations.ReservedWordsDoNothing := by
  intro p s _
  have unchanged : (.next (s.applyWord (reservedWord s.dec.timeHigh)) : Host.Outcome State Fault Refusal) = .next s :=
    congrArg _ (applyWord_none s)
  exact ⟨unchanged, unchanged, unchanged, unchanged, unchanged, unchanged, unchanged, unchanged, unchanged, unchanged,
    unchanged, unchanged, unchanged⟩

/-- Settles O31: the words and both transactions answer a next state (`exec_word`, `exec_decodeWord`,
`exec_decodeChunk`). -/
theorem decoderNeverFails : Obligations.DecoderNeverFails :=
  ⟨fun w s _ => ⟨_, exec_word w s⟩, fun w s _ => ⟨_, exec_decodeWord w s⟩,
    fun bytes s _ => ⟨_, exec_decodeChunk bytes s⟩⟩

end Sys2Proof.Machine
end

section
/-! PROOFS. The family of spec/41_painter.md: what INGEST paints and counts (R130 to R134), what SNAPSHOT samples,
copies, decays and returns (R135 to R142), the rolling window over a run (R136, R137), the decay laws and runs of
SNAPSHOTs (R144 to R146), and RESET (R143, R148). -/

namespace Sys2Proof.Machine

/-! ## What the configuration registers decide -/

/-- R132: the bounds test reads the configuration registers alone. -/
theorem Painter.SameConfig.inBounds_eq {p q : Painter} (h : p.SameConfig q) (x y : BitVec 11) :
    p.inBounds x y = q.inBounds x y := by
  rw [Painter.inBounds, Painter.inBounds, h.width, h.height]

/-- R131: the paint colour reads the configuration registers alone. -/
theorem Painter.SameConfig.colorOf_eq {p q : Painter} (h : p.SameConfig q) (pol : Polarity) :
    p.colorOf pol = q.colorOf pol := by
  cases pol with
  | on => exact h.onColor
  | off => exact h.offColor

/-! ## Painting one pixel -/

/-- R133: a painted pixel shows the colour on its three channels. -/
theorem memory_read_paint_pixel {m : Memory} (hm : m.wf) (w x y : Nat) (color : Color) {c : Nat} (hc : c < 3) :
    (m.paint w x y color).read (channelIndex w x y c) = colorChannel color c := by
  rw [memory_read_paint hm]
  obtain rfl | rfl | rfl : c = 0 ∨ c = 1 ∨ c = 2 := by omega
  all_goals simp [channelIndex, colorChannel]

/-- R133: a paint leaves every index off its pixel as it was. -/
theorem memory_read_paint_of_ne {m : Memory} (hm : m.wf) {w x y a : Nat} (color : Color)
    (ha : ∀ c < 3, a ≠ channelIndex w x y c) : (m.paint w x y color).read a = m.read a := by
  rw [memory_read_paint hm, if_neg (ha 0 (by omega)), if_neg (ha 1 (by omega)), if_neg (ha 2 (by omega))]

/-! ## One event -/

/-- R131, R133: a pixel of the raster shows an event's colour if the event lies on it, and otherwise what it showed. -/
theorem ingestOne_read_pixel {p : Painter} (hp : p.raster.wf) (ev : CDEvent) {x y c : Nat} (hx : x < p.width)
    (hy : y < p.height) (hc : c < 3) :
    (p.ingestOne ev).raster.read (channelIndex p.width x y c) =
      if ev.x.toNat = x ∧ ev.y.toNat = y then colorChannel (p.colorOf ev.polarity) c
      else p.raster.read (channelIndex p.width x y c) := by
  by_cases hin : p.inBounds ev.x ev.y = true
  · rw [ingestOne_inside hin, painter_paintEvent_raster]
    by_cases hon : ev.x.toNat = x ∧ ev.y.toNat = y
    · rw [if_pos hon, hon.1, hon.2, memory_read_paint_pixel hp _ _ _ _ hc]
    · rw [if_neg hon]
      refine memory_read_paint_of_ne hp _ fun c' hc' heq => hon ?_
      obtain ⟨hxx, hyy, -⟩ := channelIndex_inj hx ((inBounds_iff p _ _).1 hin).1 hc hc' heq
      exact ⟨hxx.symm, hyy.symm⟩
  · rw [ingestOne_outside hin, if_neg]
    rintro ⟨rfl, rfl⟩
    exact hin ((inBounds_iff p _ _).2 ⟨hx, hy⟩)

/-- R131, R133: an event leaves every index off its pixel as it was, and an event out of bounds leaves every index. -/
theorem ingestOne_read_of_ne {p : Painter} (hp : p.raster.wf) {ev : CDEvent} {a : Nat}
    (ha : p.inBounds ev.x ev.y = true → ∀ c < 3, a ≠ channelIndex p.width ev.x.toNat ev.y.toNat c) :
    (p.ingestOne ev).raster.read a = p.raster.read a := by
  by_cases hin : p.inBounds ev.x ev.y = true
  · rw [ingestOne_inside hin]
    exact memory_read_paint_of_ne hp _ (ha hin)
  · rw [ingestOne_outside hin]

/-- R131: an event is counted when it is in bounds. -/
theorem ingestOne_eventCount (p : Painter) (ev : CDEvent) :
    (p.ingestOne ev).eventCount = p.eventCount + if p.inBounds ev.x ev.y = true then 1 else 0 := by
  by_cases hin : p.inBounds ev.x ev.y = true
  · rw [ingestOne_inside hin, if_pos hin, painter_paintEvent_eventCount]
  · rw [ingestOne_outside hin, if_neg hin]
    exact (BitVec.add_zero _).symm

/-- R134: of an event, the painter reads the polarity, the column and the row. -/
theorem ingestOne_congr {ev ev' : CDEvent} (h : eventKey ev = eventKey ev') (p : Painter) :
    p.ingestOne ev = p.ingestOne ev' := by
  simp only [eventKey, Prod.mk.injEq] at h
  obtain ⟨hpol, hx, hy⟩ := h
  simp only [Painter.ingestOne, Painter.paintEvent, hpol, hx, hy]

/-! ## A list of events

The induction takes the last event off, so that the painter the list starts from stays the same. -/

theorem ingest_concat (p : Painter) (evs : List CDEvent) (ev : CDEvent) :
    p.ingest (evs ++ [ev]) = (p.ingest evs).ingestOne ev := ingest_append p evs [ev]

@[simp] theorem ingest_fpsWindow (p : Painter) (evs : List CDEvent) : (p.ingest evs).fpsWindow = p.fpsWindow := by
  rw [ingest_eq]

@[simp] theorem ingest_lastSnapshotTime (p : Painter) (evs : List CDEvent) :
    (p.ingest evs).lastSnapshotTime = p.lastSnapshotTime := by
  rw [ingest_eq]

@[simp] theorem ingest_frameCount (p : Painter) (evs : List CDEvent) : (p.ingest evs).frameCount = p.frameCount := by
  rw [ingest_eq]

/-- The last event of a list on a pixel is the list's last event, if that lies on it. -/
theorem lastOn_concat (evs : List CDEvent) (ev : CDEvent) (x y : Nat) :
    lastOn (evs ++ [ev]) x y = if ev.x.toNat = x ∧ ev.y.toNat = y then some ev else lastOn evs x y := by
  by_cases hon : ev.x.toNat = x ∧ ev.y.toNat = y
  · simp [lastOn, hon]
  · rw [if_neg hon, lastOn, List.reverse_concat, List.find?_cons_of_neg (by simpa using hon), lastOn]

/-- R130, R133: after INGEST a pixel shows the colour of the last event on it, or what it showed. -/
theorem ingest_read_pixel {p : Painter} (hp : p.raster.wf) (evs : List CDEvent) {x y c : Nat} (hx : x < p.width)
    (hy : y < p.height) (hc : c < 3) :
    (p.ingest evs).raster.read (channelIndex p.width x y c) =
      match lastOn evs x y with
      | some ev => colorChannel (p.colorOf ev.polarity) c
      | none => p.raster.read (channelIndex p.width x y c) := by
  induction evs using List.reverseRecOn with
  | nil => rfl
  | append_singleton evs ev ih =>
    have hsame := ingest_sameConfig p evs
    have hone := ingestOne_read_pixel (ingest_wf hp evs) ev (hsame.width ▸ hx) (hsame.height ▸ hy) hc
    rw [hsame.width, hsame.colorOf_eq, ih] at hone
    rw [ingest_concat, hone, lastOn_concat]
    by_cases hon : ev.x.toNat = x ∧ ev.y.toNat = y
    · rw [if_pos hon, if_pos hon]
    · rw [if_neg hon, if_neg hon]

/-- R130, R133: INGEST leaves every index off the pixels of its in-bounds events as it was. -/
theorem ingest_read_of_ne {p : Painter} (hp : p.raster.wf) {evs : List CDEvent} {a : Nat}
    (ha : ∀ ev ∈ evs, p.inBounds ev.x ev.y = true → ∀ c < 3, a ≠ channelIndex p.width ev.x.toNat ev.y.toNat c) :
    (p.ingest evs).raster.read a = p.raster.read a := by
  induction evs using List.reverseRecOn with
  | nil => rfl
  | append_singleton evs ev ih =>
    obtain ⟨hinit, hlast⟩ := List.forall_mem_append.1 ha
    have hsame := ingest_sameConfig p evs
    rw [ingest_concat, ingestOne_read_of_ne (ingest_wf hp evs), ih hinit]
    rw [hsame.inBounds_eq, hsame.width]
    exact hlast ev (List.mem_singleton_self ev)

/-- R130, R131: INGEST counts its in-bounds events modulo 2^64. -/
theorem ingest_eventCount (p : Painter) (evs : List CDEvent) :
    (p.ingest evs).eventCount = p.eventCount + BitVec.ofNat 64 (inBoundsCount p evs) := by
  induction evs using List.reverseRecOn with
  | nil => exact (BitVec.add_zero _).symm
  | append_singleton evs ev ih =>
    have hcount : inBoundsCount p (evs ++ [ev]) =
        inBoundsCount p evs + if p.inBounds ev.x ev.y = true then 1 else 0 := by
      simp only [inBoundsCount, List.countP_append, List.countP_singleton]
    rw [ingest_concat, ingestOne_eventCount, ih, (ingest_sameConfig p evs).inBounds_eq, hcount, BitVec.ofNat_add,
      BitVec.add_assoc]
    split <;> rfl

/-- R134: lists of events with the same polarities, columns and rows have the same effect. -/
theorem ingest_congr {evs evs' : List CDEvent} (h : evs.map eventKey = evs'.map eventKey) (p : Painter) :
    p.ingest evs = p.ingest evs' := by
  induction evs generalizing p evs' with
  | nil => rw [List.map_eq_nil_iff.1 h.symm]
  | cons ev evs ih =>
    obtain ⟨ev', rest, rfl, hkey, hrest⟩ := List.map_eq_cons_iff.1 h.symm
    rw [ingest_cons, ingest_cons, ingestOne_congr hkey.symm, ih hrest.symm]

/-- Settles O33: INGEST writes the raster and the event count alone (`ingest_eq`), and these are what the list paints
and counts. -/
theorem ingestPaintsInListOrder : Obligations.IngestPaintsInListOrder := by
  intro evs s _ hwf
  refine ⟨(s.acc.ingest evs).raster, ?_, fun x y c hx hy hc => ?_, fun a ha => ingest_read_of_ne hwf ha⟩
  · rw [exec_ingest, ingest_eq, ingest_eventCount]
    rfl
  · exact ingest_read_pixel hwf evs hx hy hc

/-- Settles O34: the list of one in-bounds event is one paint. -/
theorem paintWritesExactlyOnePixel : Obligations.PaintWritesExactlyOnePixel := by
  intro ev s _ hwf hx hy
  have hin := (inBounds_iff s.acc ev.x ev.y).2 ⟨hx, hy⟩
  refine ⟨_, exec_ingest [ev] s, ?_, fun c hc => ?_, fun a ha => ?_⟩
  · rw [state_withAcc_acc, ingest_cons, ingest_nil, ingestOne_eventCount, if_pos hin]
  · rw [state_withAcc_acc, ingest_cons, ingest_nil, ingestOne_read_pixel hwf ev hx hy hc, if_pos ⟨rfl, rfl⟩]
    cases ev.polarity <;> rfl
  · exact ingestOne_read_of_ne hwf fun _ => ha

/-- Settles O36: the painter is the same after either list (`ingest_congr`). -/
theorem timestampsDoNotPaint : Obligations.TimestampsDoNotPaint := by
  intro evs evs' s _ h
  rw [exec_ingest, exec_ingest, ingest_congr h]

/-! ## SNAPSHOT -/

/-- R136: when time does not run backwards, the elapsed time is the difference of the tick counts. -/
theorem elapsed_eq_ofNat {p : Painter} {now : Ticks} (h : p.lastSnapshotTime.toNat ≤ now.toNat) :
    p.elapsed now = BitVec.ofNat 64 (now.toNat - p.lastSnapshotTime.toNat) := by
  apply BitVec.eq_of_toNat_eq
  rw [Painter.elapsed, BitVec.toNat_sub_of_le (BitVec.le_def.2 h), BitVec.toNat_ofNat, Nat.mod_eq_of_lt (by omega)]

/-- R137: the window after the push, its capacity test as numbers. -/
theorem pushWindow_eq (p : Painter) (e : Ticks) :
    p.pushWindow e =
      (if p.fpsWindow.length = p.fpsCapacity then p.fpsWindow.drop 1 else p.fpsWindow) ++ [e] := by
  simp only [Painter.pushWindow, windowFull_iff]

/-- Settles O37: the raster is the decayed one, the window the pushed one, and the rest is `Painter.snapshot`. -/
theorem snapshotSamplesCopiesDecaysAndCounts : Obligations.SnapshotSamplesCopiesDecaysAndCounts := by
  intro now s _ hle hwf hdecay
  refine ⟨s.acc.raster.decay s.acc.decayNum, s.acc.pushWindow (s.acc.elapsed now), ?_, fun a => ?_, ?_⟩
  · rw [pushWindow_eq, elapsed_eq_ofNat hle]
  · rw [memory_read_decay hwf]
    exact decayByte_toNat hdecay _
  · rw [exec_snapshot_of_le hle]
    rfl

/-! ## The rolling window over a run -/

theorem snapshotTime_eq_some {i : Instr} {now : Ticks} (h : snapshotTime i = some now) : i = .snapshot now := by
  cases i with
  | snapshot now' => cases h; rfl
  | _ => cases h

/-- R29, R30: no instruction but SNAPSHOT writes the window or the last snapshot time. -/
theorem exec_keeps_window {i : Instr} {s t : State} (hi : snapshotTime i = none) (hx : exec i s = .next t) :
    t.acc.fpsWindow = s.acc.fpsWindow ∧ t.acc.lastSnapshotTime = s.acc.lastSnapshotTime := by
  obtain ⟨w, -, rfl⟩ | ⟨w, -, rfl⟩ | ⟨bytes, -, rfl⟩ | ⟨evs, -, rfl⟩ | ⟨now, rfl, -⟩ | ⟨-, rfl⟩ := exec_next_cases hx
  · exact ⟨rfl, rfl⟩
  · exact ⟨rfl, rfl⟩
  · exact ⟨rfl, rfl⟩
  · exact ⟨ingest_fpsWindow _ _, ingest_lastSnapshotTime _ _⟩
  · cases hi
  · exact ⟨rfl, rfl⟩

/-- R137: pushing onto the last `FPS_WINDOW` of the elapsed times so far gives the last `FPS_WINDOW` of them with the
new one. -/
theorem pushWindow_eq_rtake {p : Painter} {past : List Ticks} (hpos : 1 ≤ p.fpsCapacity)
    (hp : p.fpsWindow = past.rtake p.fpsCapacity) (e : Ticks) :
    p.pushWindow e = (past ++ [e]).rtake p.fpsCapacity := by
  obtain ⟨n, hn⟩ := Nat.exists_eq_add_of_le' hpos
  rw [pushWindow_eq, hp, hn, List.rtake_concat_succ]
  congr 1
  simp only [List.rtake, List.length_drop, List.drop_drop]
  by_cases hfull : n + 1 ≤ past.length
  · rw [if_pos (by omega), show past.length - (n + 1) + 1 = past.length - n by omega]
  · rw [if_neg (by omega), show past.length - (n + 1) = past.length - n by omega]

/-- R136, R137: a run goes on from the elapsed times so far, and the window holds the last `FPS_WINDOW` of them all. -/
theorem execAll_window {is : List Instr} {s t : State} {past : List Ticks} (hm : s.mark = none)
    (hpos : 1 ≤ s.acc.fpsCapacity) (hpast : s.acc.fpsWindow = past.rtake s.acc.fpsCapacity)
    (hx : execAll is s = .next t) :
    t.acc.fpsWindow =
      (past ++ elapsedTimes s.acc.lastSnapshotTime (is.filterMap snapshotTime)).rtake s.acc.fpsCapacity := by
  induction is generalizing s past with
  | nil =>
    cases hx
    rw [List.filterMap_nil, elapsedTimes, List.append_nil, hpast]
  | cons i is ih =>
    obtain ⟨u, hu, hrest⟩ := execAll_cons_next hx
    have hum := (exec_next_mark hu).trans hm
    have hcap := (configurationRegistersAreReadOnly i s u hm hu).1.fpsCapacity
    cases hi : snapshotTime i with
    | none =>
      obtain ⟨hwindow, hlast⟩ := exec_keeps_window hi hu
      rw [List.filterMap_cons_none hi, ← hlast, ← hcap]
      exact ih hum (hcap ▸ hpos) (by rw [hwindow, hcap, hpast]) hrest
    | some now =>
      cases snapshotTime_eq_some hi
      cases exec_snapshot_next hu
      rw [List.filterMap_cons_some hi, elapsedTimes, List.append_cons]
      exact ih hum hpos (pushWindow_eq_rtake hpos hpast _) hrest

/-- Settles O40: construction starts with no elapsed times and the empty window. -/
theorem windowHoldsTheLastElapsedTimes : Obligations.WindowHoldsTheLastElapsedTimes := by
  intro cfg now0 is t hlegal hx elapsed
  have ⟨_, _, _, _, _, hcapacity, _⟩ := hlegal
  have hwindow : t.acc.fpsWindow = elapsed.rtake cfg.fpsWindow :=
    execAll_window (past := []) rfl hcapacity (List.rtake_nil _).symm hx
  refine ⟨hwindow, ?_⟩
  rw [hwindow, List.rtake, List.length_drop]
  omega

/-! ## The spec's default frame rate -/

/-- Settles O41: the elapsed seconds are not negative, so EPS bounds the denominator from below; a sum of equal rates
is their number times the rate. -/
theorem defaultFrameRateIsGuarded : Obligations.DefaultFrameRateIsGuarded := by
  refine ⟨fun tickHz eps _ heps => ⟨by simp [defaultFpsInst], fun e => ?_⟩, fun inst e n => ?_⟩
  · have hseconds : 0 ≤ (e.toNat : ℝ) / tickHz := by positivity
    exact ⟨one_div_pos.2 (by linarith), one_div_le_one_div_of_le heps (by linarith)⟩
  · have hne : ((n + 1 : ℕ) : ℝ) ≠ 0 := Nat.cast_ne_zero.2 n.succ_ne_zero
    rw [smoothedRate, defaultFpsSmooth, List.map_replicate, List.sum_replicate, List.length_replicate, nsmul_eq_mul,
      mul_div_cancel_left₀ _ hne]

/-! ## The decay of one channel -/

/-- R144: at a rate below 1 a channel that is not 0 falls. -/
theorem decayByte_lt {d : BitVec 17} (hd : d.toNat < 65536) {c : Byte} (hc : 1 ≤ c.toNat) :
    (decayByte d c).toNat < c.toNat := by
  rw [decayByte_toNat (Nat.le_of_lt hd)]
  exact Nat.div_lt_of_lt_mul (by rw [Nat.mul_comm 65536]; exact Nat.mul_lt_mul_of_pos_left hd hc)

/-- R144: decay keeps the order of channels. -/
theorem decayByte_mono {d : BitVec 17} (hd : d.toNat ≤ 65536) {c1 c2 : Byte} (h : c1.toNat ≤ c2.toNat) :
    (decayByte d c1).toNat ≤ (decayByte d c2).toNat := by
  rw [decayByte_toNat hd, decayByte_toNat hd]
  exact Nat.div_le_div_right (Nat.mul_le_mul_right _ h)

/-- R144: decay never raises a channel. -/
theorem decayByte_le {d : BitVec 17} (hd : d.toNat ≤ 65536) (c : Byte) : (decayByte d c).toNat ≤ c.toNat := by
  rw [decayByte_toNat hd]
  exact Nat.div_le_of_le_mul (by rw [Nat.mul_comm 65536]; exact Nat.mul_le_mul_left _ hd)

/-- R145: at rate 1 a channel does not decay. -/
theorem decayByte_full {d : BitVec 17} (hd : d.toNat = 65536) (c : Byte) : decayByte d c = c := by
  apply BitVec.eq_of_toNat_eq
  rw [decayByte_toNat hd.le, hd, Nat.mul_div_cancel _ (by decide)]

/-- R144: each decay at a rate below 1 takes at least 1 from a channel, until it is 0. -/
theorem decayByte_iterate_le {d : BitVec 17} (hd : d.toNat < 65536) (n : Nat) (c : Byte) :
    ((decayByte d)^[n] c).toNat ≤ c.toNat - n := by
  induction n with
  | zero => exact Nat.le_refl _
  | succ n ih =>
    rw [Function.iterate_succ_apply']
    by_cases hzero : 1 ≤ ((decayByte d)^[n] c).toNat
    · have := decayByte_lt hd hzero
      omega
    · have := decayByte_le (Nat.le_of_lt hd) ((decayByte d)^[n] c)
      omega

/-- R146: a decay at rate 2^-k is a division by 2^k. -/
theorem decayByte_dyadic {d : BitVec 17} {k : Nat} (hk : k ≤ 16) (hd : d.toNat = 2 ^ (16 - k)) (c : Byte) :
    (decayByte d c).toNat = c.toNat / 2 ^ k := by
  have hle : d.toNat ≤ 65536 := hd ▸ Nat.pow_le_pow_right (by decide) (Nat.sub_le 16 k)
  have hsplit : 2 ^ k * 2 ^ (16 - k) = 65536 := pow_mul_pow_sub 2 hk
  rw [decayByte_toNat hle, hd, ← hsplit, Nat.mul_div_mul_right _ _ (Nat.two_pow_pos _)]

/-- R146: n decays at rate 2^-k are one division by 2^(k n). -/
theorem decayByte_iterate_dyadic {d : BitVec 17} {k : Nat} (hk : k ≤ 16) (hd : d.toNat = 2 ^ (16 - k)) (n : Nat)
    (c : Byte) : ((decayByte d)^[n] c).toNat = c.toNat / 2 ^ (k * n) := by
  induction n with
  | zero => exact (Nat.div_one _).symm
  | succ n ih =>
    rw [Function.iterate_succ_apply', decayByte_dyadic hk hd, ih, Nat.div_div_eq_div_mul, ← pow_add, Nat.mul_succ]

/-! ## Snapshots in a row -/

/-- R139: n SNAPSHOTs with nothing in between decay every channel n times. -/
theorem execAll_snapshots_read {nows : List Ticks} {s t : State} (hwf : s.acc.raster.wf)
    (hx : execAll (nows.map .snapshot) s = .next t) (a : Nat) :
    t.acc.raster.read a = (decayByte s.acc.decayNum)^[nows.length] (s.acc.raster.read a) := by
  induction nows generalizing s with
  | nil => cases hx; rfl
  | cons now nows ih =>
    obtain ⟨u, hu, hrest⟩ := execAll_cons_next hx
    cases exec_snapshot_next hu
    rw [ih (memory_wf_decay hwf _) hrest, List.length_cons, Function.iterate_succ_apply, ← memory_read_decay hwf]
    rfl

/-- Settles O42: the laws of one channel, and that 255 decays take at least 255 from it. -/
theorem decayDrivesEveryChannelToZero : Obligations.DecayDrivesEveryChannelToZero := by
  refine ⟨fun d c hd => decayByte_le hd c, decayByte_unlisted, fun d c1 c2 hd h => decayByte_mono hd h,
    fun d c hd hc => decayByte_lt hd hc, fun nows s t _ hwf hd hlen hx a => ?_⟩
  rw [execAll_snapshots_read hwf hx]
  have hle := decayByte_iterate_le hd nows.length (s.acc.raster.read a)
  have hbyte := (s.acc.raster.read a).isLt
  have hzero : ((decayByte s.acc.decayNum)^[nows.length] (s.acc.raster.read a)).toNat = 0 := by omega
  exact BitVec.eq_of_toNat_eq hzero

/-- R145: a canonical raster is its own decay at rate 1, since no channel it lists is 0. -/
theorem memory_decay_full {m : Memory} (hm : m.wf) {d : BitVec 17} (hd : d.toNat = 65536) : m.decay d = m := by
  have hcell : ∀ cell ∈ m, decayCell d cell = some cell := fun cell hcell => by
    rw [decayCell, decayByte_full hd, if_neg (hm.2 cell hcell)]
  rw [Memory.decay, List.filterMap_congr hcell, List.filterMap_some]

/-- Settles O43: the raster of the next state is the decayed one. -/
theorem fullRateKeepsTheRaster : Obligations.FullRateKeepsTheRaster := by
  intro now s t _ hwf hd hx
  cases exec_snapshot_next hx
  exact memory_decay_full hwf hd

/-- Settles O44: the run decays every channel once for each SNAPSHOT. -/
theorem dyadicDecayHasClosedForm : Obligations.DyadicDecayHasClosedForm := by
  intro k nows s t _ hk hd hwf hx a
  rw [execAll_snapshots_read hwf hx, decayByte_iterate_dyadic hk hd]

/-! ## RESET -/

/-- R143, R148: after RESET and INGEST a channel is 0 but on the pixels of the in-bounds events. -/
theorem reset_ingest_read {p : Painter} {evs : List CDEvent} {a : Nat}
    (ha : ∀ ev ∈ evs, p.inBounds ev.x ev.y = true → ∀ c < 3, a ≠ channelIndex p.width ev.x.toNat ev.y.toNat c) :
    (p.reset.ingest evs).raster.read a = 0 :=
  ingest_read_of_ne (p := p.reset) (memory_wf_clear p.raster) ha

/-- Settles O47: RESET keeps the frame count, and the copy is the cleared raster with the events ingested since. -/
theorem resetKeepsTheFrameCount : Obligations.ResetKeepsTheFrameCount := by
  intro now1 now2 evs s t _ hx
  obtain ⟨s1, hsnap1, hx⟩ := execAll_cons_next hx
  obtain ⟨s2, hreset, hx⟩ := execAll_cons_next hx
  obtain ⟨s3, hingest, hx⟩ := execAll_cons_next hx
  obtain ⟨s4, hsnap2, hx⟩ := execAll_cons_next hx
  cases exec_snapshot_next hsnap1
  cases hreset
  cases hingest
  cases exec_snapshot_next hsnap2
  cases hx
  exact ⟨(s.acc.snapshot now1).2, (((s.acc.snapshot now1).1.reset.ingest evs).snapshot now2).2,
    List.append_assoc _ _ _, congrArg (· + 1) (ingest_frameCount _ evs),
    fun a ha => reset_ingest_read (p := (s.acc.snapshot now1).1) ha⟩

/-- Settles O46: the values of `constructed`, and RESET's next state with the cleared raster. -/
theorem resetIsNotConstruction : Obligations.ResetIsNotConstruction :=
  ⟨fun _ _ => ⟨rfl, fun _ => rfl, rfl, rfl, rfl, rfl⟩,
    fun s _ => ⟨s.acc.raster.clear, memory_read_clear s.acc.raster, exec_reset s⟩⟩

end Sys2Proof.Machine
end

section
/-! PROOFS. The family of spec/60_exceptions.md: the sticky mark of one machine and of a system of instances (R177,
R178), instances that share no state (R181), and idling between transactions (R183). -/

namespace Sys2Proof.Machine

/-! ## Idling -/

/-- R183: an unmarked machine with nothing pending idles. -/
theorem step_of_idle {s : State} (hm : s.mark = none) (hinput : s.input = []) : step s = .next s := by
  simp only [step, fetch, hm, hinput]

/-- Settles O10: the idle state is a fixed point of `advance`, so of every number of steps. -/
theorem idleStepsChangeNothing : Obligations.IdleStepsChangeNothing := by
  intro s hm hinput
  have hstep := step_of_idle hm hinput
  have hfixed : advance s = s := by rw [advance, hstep, settle]
  exact ⟨hstep, Function.iterate_fixed hfixed⟩

/-! ## The sticky mark of one machine -/

theorem stoppedOutcome_ne_next {σ : Type} (m : Mark) (x : σ) : stoppedOutcome m ≠ .next x := by
  cases m <;> nofun

/-- R178: a stop leaves the state with its mark set. -/
@[simp] theorem settle_stopped (s : State) (m : Mark) : settle s (stoppedOutcome m) = s.setMark m := by
  cases m <;> rfl

/-- R178: setting the mark that is set already changes nothing. -/
theorem setMark_of_marked {s : State} {m : Mark} (h : s.mark = some m) : s.setMark m = s := by
  rw [State.setMark, ← h]

/-- R178: a marked machine answers its stop again. -/
theorem step_of_marked {s : State} {m : Mark} (h : s.mark = some m) : step s = stoppedOutcome m := by
  simp only [step, fetch, h]

theorem advance_of_marked {s : State} {m : Mark} (h : s.mark = some m) : advance s = s := by
  rw [advance, step_of_marked h, settle_stopped, setMark_of_marked h]

/-- R177, R178: a marked machine takes no further transaction. -/
theorem transact_of_marked {s : State} {m : Mark} (h : s.mark = some m) (i : Instr) : transact i s = s := by
  simp only [transact, h]

/-- R178: a faulting transaction of an unmarked machine sets the mark and writes nothing else. -/
theorem transact_of_exec_fault {i : Instr} {s : State} {f : Fault} (hm : s.mark = none)
    (hfault : exec i s = .fault f) : transact i s = { s with mark := some (.fault f) } := by
  rw [transact, hm, hfault]
  rfl

/-- Settles O12: a stop writes the mark alone, a marked machine is a fixed point of steps and transactions, and no
instruction that completes writes the mark. -/
theorem markIsStickyAndAlone : Obligations.MarkIsStickyAndAlone := by
  refine ⟨fun _ _ _ => transact_of_exec_fault, fun _ _ _ => transact_of_exec_refused, fun s m h => ?_,
    fun _ _ _ => exec_next_mark⟩
  refine ⟨fun t => ?_, advance_of_marked h, transact_of_marked h⟩
  rw [step_of_marked h]
  exact stoppedOutcome_ne_next m t

/-! ## Construction in a system -/

/-- What the construction of a decoder can do when it answers a next system (R192). -/
theorem addDecoder_next {sys sys' : System} {policy : CarryPolicy} {r : Unit}
    (h : sys.addDecoder policy = .next (sys', r)) :
    sys' = { sys with decoders := sys.decoders ++ [constructDecoder policy] } := by
  obtain ⟨-, h⟩ := unlessMarked_next h
  cases h
  rfl

/-- What the construction of a painter can do when it answers a next system (R192). -/
theorem addPainter_next {sys sys' : System} {cfg : Cfg} {now0 : Ticks} {r : Unit}
    (h : sys.addPainter cfg now0 = .next (sys', r)) :
    sys' = { sys with painters := sys.painters ++ [constructPainter cfg now0] } := by
  obtain ⟨-, h⟩ := unlessMarked_next h
  split at h
  · cases h
    rfl
  · cases h

/-! ## Instances share no state -/

/-- R181: a transaction on one decoder leaves every painter and every other decoder as it was. -/
theorem onDecoder_frame {β : Type} {sys sys' : System} {k : Nat} {f : Decoder → Decoder × β} {r : β}
    (h : sys.onDecoder k f = .next (sys', r)) :
    sys'.painters = sys.painters ∧ ∀ j, j ≠ k → sys'.decoders[j]? = sys.decoders[j]? := by
  obtain ⟨-, d, -, -, rfl⟩ := onDecoder_next h
  exact ⟨rfl, fun j hj => List.getElem?_set_ne hj.symm⟩

/-- R181: a transaction on one painter leaves every decoder and every other painter as it was. -/
theorem onPainter_frame {β : Type} {sys sys' : System} {k : Nat} {f : Painter → Painter × β} {r : β}
    (h : sys.onPainter k f = .next (sys', r)) :
    sys'.decoders = sys.decoders ∧ ∀ j, j ≠ k → sys'.painters[j]? = sys.painters[j]? := by
  obtain ⟨-, p, -, -, rfl⟩ := onPainter_next h
  exact ⟨rfl, fun j hj => List.getElem?_set_ne hj.symm⟩

/-- R192: the construction of a decoder leaves all decoders and painters as they were. -/
theorem addDecoder_frame {sys sys' : System} {policy : CarryPolicy} {r : Unit}
    (h : sys.addDecoder policy = .next (sys', r)) :
    sys'.painters = sys.painters ∧ ∀ j < sys.decoders.length, sys'.decoders[j]? = sys.decoders[j]? := by
  rw [addDecoder_next h]
  exact ⟨rfl, fun j hj => List.getElem?_append_left hj⟩

/-- R192: the construction of a painter leaves all decoders and painters as they were. -/
theorem addPainter_frame {sys sys' : System} {cfg : Cfg} {now0 : Ticks} {r : Unit}
    (h : sys.addPainter cfg now0 = .next (sys', r)) :
    sys'.decoders = sys.decoders ∧ ∀ j < sys.painters.length, sys'.painters[j]? = sys.painters[j]? := by
  rw [addPainter_next h]
  exact ⟨rfl, fun j hj => List.getElem?_append_left hj⟩

/-- Settles O51: every transaction is one on a decoder or one on a painter, SNAPSHOT where it does not fault; a
construction puts the new one after those there are. -/
theorem instancesShareNoState : Obligations.InstancesShareNoState := fun _ _ _ =>
  ⟨fun _ _ _ hchunk => onDecoder_frame hchunk,
    fun _ _ _ hword => onDecoder_frame hword,
    fun _ _ hingest => onPainter_frame hingest,
    fun _ _ _ hsnap => onPainter_frame (system_snapshot_next hsnap),
    fun _ hreset => onPainter_frame hreset,
    fun _ hdecoder => addDecoder_frame hdecoder,
    fun _ _ hpainter => addPainter_frame hpainter⟩

/-! ## The sticky mark of a system -/

theorem onDecoder_next_mark {β : Type} {sys sys' : System} {k : Nat} {f : Decoder → Decoder × β} {r : β}
    (h : sys.onDecoder k f = .next (sys', r)) : sys'.mark = sys.mark := by
  obtain ⟨-, d, -, -, rfl⟩ := onDecoder_next h
  rfl

theorem onPainter_next_mark {β : Type} {sys sys' : System} {k : Nat} {f : Painter → Painter × β} {r : β}
    (h : sys.onPainter k f = .next (sys', r)) : sys'.mark = sys.mark := by
  obtain ⟨-, p, -, -, rfl⟩ := onPainter_next h
  rfl

/-- R81: a reserved command code never completes. -/
theorem reservedCommand_ne_next (sys : System) (x : System × Unit) : sys.reservedCommand ≠ .next x := by
  intro h
  obtain ⟨-, h⟩ := unlessMarked_next h
  cases h

/-- R178: a transaction that completes neither sets nor clears the mark. -/
theorem system_exec_next_mark {sys sys' : System} {c : SystemCmd} {r : Option Response}
    (h : sys.exec c = .next (sys', r)) : sys'.mark = sys.mark := by
  cases c with
  | addDecoder => obtain ⟨_, h, -⟩ := respondWith_eq_next h; rw [addDecoder_next h]
  | addPainter => obtain ⟨_, h, -⟩ := respondWith_eq_next h; rw [addPainter_next h]
  | decodeWord | decodeChunk => obtain ⟨_, h, -⟩ := respondWith_eq_next h; exact onDecoder_next_mark h
  | ingest | reset => obtain ⟨_, h, -⟩ := respondWith_eq_next h; exact onPainter_next_mark h
  | snapshot =>
    obtain ⟨_, h, -⟩ := respondWith_eq_next h
    exact onPainter_next_mark (system_snapshot_next h)
  | cmdRsv0 | cmdRsv6 | cmdRsv7 =>
    obtain ⟨_, h, -⟩ := respondWith_eq_next h
    exact absurd h (reservedCommand_ne_next sys _)

/-- R178: a stop leaves the system with its mark set. -/
@[simp] theorem system_settle_stopped {β : Type} (sys : System) (m : Mark) :
    sys.settle (stoppedOutcome m : SystemOutcome β) = { sys with mark := some m } := by
  cases m <;> rfl

/-- R178: a marked system stays as it is. -/
theorem system_transact_of_marked {sys : System} {m : Mark} (h : sys.mark = some m) (c : SystemCmd) :
    sys.transact c = sys := by
  rw [System.transact, system_exec_marked h, system_settle_stopped, ← h]

/-- R81: an unmarked system refuses the reserved command codes. -/
theorem system_exec_reserved {sys : System} (hm : sys.mark = none) :
    sys.exec .cmdRsv0 = .refused .refuseCmd ∧ sys.exec .cmdRsv6 = .refused .refuseCmd ∧
      sys.exec .cmdRsv7 = .refused .refuseCmd := by
  have hrefused : sys.reservedCommand = .refused .refuseCmd := unlessMarked_none hm _
  simp only [System.exec, hrefused, respondWith, and_self]

/-- R7: an unmarked system refuses to construct a painter with an illegal configuration. -/
theorem system_exec_addPainter_of_not_cfgLegal {sys : System} (hm : sys.mark = none) {cfg : Cfg}
    (hcfg : ¬ CfgLegal cfg) (now0 : Ticks) : sys.exec (.addPainter cfg now0) = .refused .refuseConfig := by
  rw [System.exec, System.addPainter, unlessMarked_none hm, if_neg hcfg]
  rfl

/-- Settles O55: a stop writes the mark alone, a marked system is a fixed point of every transaction, and no
transaction that completes writes the mark. -/
theorem systemMarkIsStickyAndAlone : Obligations.SystemMarkIsStickyAndAlone := by
  refine ⟨fun sys c f _ hfault => ?_, fun sys c r _ hrefused => ?_,
    fun sys m c h => ⟨system_exec_marked h c, system_transact_of_marked h c⟩,
    fun sys sys' c r hm hx => (system_exec_next_mark hx).trans hm, fun sys c hm hc => ?_,
    fun sys cfg now0 hm hcfg => system_exec_addPainter_of_not_cfgLegal hm hcfg now0⟩
  · rw [System.transact, hfault, system_settle_fault]
  · rw [System.transact, hrefused, system_settle_refused]
  · obtain ⟨hrsv0, hrsv6, hrsv7⟩ := system_exec_reserved hm
    obtain rfl | rfl | rfl := hc
    · exact hrsv0
    · exact hrsv6
    · exact hrsv7

end Sys2Proof.Machine
end

section
/-! PROOFS. The family of spec/70_reset_and_hazards.md: construction and the reset state meet the invariant (R190), the
paint trail that successive copies show (R198), and the fault of a time that runs backwards (R200). -/

namespace Sys2Proof.Machine

/-! ## Construction and the reset state -/

/-- R5, R31: different colours in range have different registers. -/
theorem colorRegister_inj {c c' : CfgColor} (h : CfgColorLegal 8 c) (h' : CfgColorLegal 8 c')
    (heq : colorRegister c = colorRegister c') : c = c' := by
  obtain ⟨h0, h1, h2⟩ := colorRegister_toNat h
  obtain ⟨h0', h1', h2'⟩ := colorRegister_toNat h'
  rw [heq] at h0 h1 h2
  cases c
  cases c'
  rw [CfgColor.mk.injEq]
  exact ⟨h0.symm.trans h0', h1.symm.trans h1', h2.symm.trans h2'⟩

/-- R5, R31: a legal configuration loads legal registers; DECAY_NUM and the colours fit theirs, so none is cut. -/
theorem constructPainter_registersLegal {cfg : Cfg} (hlegal : CfgLegal cfg) (now0 : Ticks) :
    (constructPainter cfg now0).RegistersLegal := by
  obtain ⟨hwidth, hheight, hdecayLow, hdecayHigh, -, hcapacity, heps, htick, hon, hoff, hcolors, hchan, -⟩ := hlegal
  rw [hchan] at hon hoff
  have hdecayNum : (BitVec.ofNat 17 cfg.decayNum).toNat = cfg.decayNum :=
    (BitVec.toNat_ofNat _ _).trans (Nat.mod_eq_of_lt (by omega))
  exact {
    width_pos := hwidth
    height_pos := hheight
    decay_pos := hdecayNum.symm ▸ hdecayLow
    decay_le := hdecayNum.symm ▸ hdecayHigh
    capacity_pos := hcapacity
    colors_differ := mt (colorRegister_inj hoff hon) hcolors
    tick_pos := htick
    eps_pos := (epsLegal_iff _).1 heps }

/-- R190: a fresh decoder has no carry. -/
theorem constructDecoder_inv (policy : CarryPolicy) : (constructDecoder policy).Inv where
  carry_short := Nat.zero_le 3
  drop_empty _ := rfl

/-- R190: a fresh painter has legal registers, an unlisted raster and an empty window. -/
theorem constructPainter_inv {cfg : Cfg} (hlegal : CfgLegal cfg) (now0 : Ticks) :
    (constructPainter cfg now0).Inv where
  registers := constructPainter_registersLegal hlegal now0
  canonical := memory_wf_nil
  within := nofun
  window := Nat.zero_le _

/-- Settles O49: both fresh sub-blocks meet their invariants, and nothing is output or returned yet. -/
theorem constructionSatisfiesInvariant : Obligations.ConstructionSatisfiesInvariant := fun cfg now0 hlegal =>
  { dec := constructDecoder_inv cfg.carryPolicy
    acc := constructPainter_inv hlegal now0
    out := nofun
    responses := nofun }

theorem cfgLegal_atReset : CfgLegal Cfg.atReset := by decide

/-- The reset state, written out in the model, is the constructed state of its configuration. -/
theorem constructed_atReset : constructed Cfg.atReset 0 = State.reset := rfl

/-- Settles O16: the example configuration is legal, so construction answers the constructed state. -/
theorem resetStateIsAConstruction : Obligations.ResetStateIsAConstruction := by
  rw [Obligations.ResetStateIsAConstruction, ← constructed_atReset]
  exact if_pos cfgLegal_atReset

/-- Settles O50: the reset state is a constructed one, which meets the invariant and has no mark. -/
theorem resetStateIsSafe : Obligations.ResetStateIsSafe := by
  rw [Obligations.ResetStateIsSafe, ← constructed_atReset]
  exact ⟨constructionSatisfiesInvariant _ _ cfgLegal_atReset, constructed_mark _ _⟩

/-! ## Time that runs backwards -/

/-- Settles O38: a fault leaves the mark alone (`transact_of_exec_fault`), and a SNAPSHOT that completes samples its
`now`. -/
theorem backwardsTimeFaults : Obligations.BackwardsTimeFaults := by
  intro now s hm
  refine ⟨fun hlt => ?_, fun hle => ⟨_, exec_snapshot_of_le hle, rfl⟩⟩
  have hfault := exec_snapshot_of_lt hlt
  exact ⟨hfault, transact_of_exec_fault hm hfault⟩

/-! ## The paint trail -/

theorem Painter.SameConfig.trans {p q r : Painter} (h : p.SameConfig q) (h' : q.SameConfig r) : p.SameConfig r where
  width := h.width.trans h'.width
  height := h.height.trans h'.height
  decayNum := h.decayNum.trans h'.decayNum
  fpsCapacity := h.fpsCapacity.trans h'.fpsCapacity
  onColor := h.onColor.trans h'.onColor
  offColor := h.offColor.trans h'.offColor
  tickHz := h.tickHz.trans h'.tickHz
  eps := h.eps.trans h'.eps
  fpsInst := h.fpsInst.trans h'.fpsInst
  fpsSmooth := h.fpsSmooth.trans h'.fpsSmooth

/-- R131, R133: an in-bounds event shows its colour on its own pixel. -/
theorem ingest_singleton_read_self {p : Painter} (hp : p.raster.wf) {ev : CDEvent}
    (hin : p.inBounds ev.x ev.y = true) {c : Nat} (hc : c < 3) :
    (p.ingest [ev]).raster.read (channelIndex p.width ev.x.toNat ev.y.toNat c) =
      colorChannel (p.colorOf ev.polarity) c := by
  obtain ⟨hx, hy⟩ := (inBounds_iff p _ _).1 hin
  rw [ingest_cons, ingest_nil, ingestOne_read_pixel hp ev hx hy hc, if_pos ⟨rfl, rfl⟩]

/-- R131, R133: an event leaves every other pixel of the raster as it was. -/
theorem ingest_singleton_read_other {p : Painter} (hp : p.raster.wf) {ev : CDEvent} {x y : BitVec 11}
    (hin : p.inBounds x y = true) (hne : (x, y) ≠ (ev.x, ev.y)) {c : Nat} (hc : c < 3) :
    (p.ingest [ev]).raster.read (channelIndex p.width x.toNat y.toNat c) =
      p.raster.read (channelIndex p.width x.toNat y.toNat c) := by
  obtain ⟨hx, hy⟩ := (inBounds_iff p _ _).1 hin
  rw [ingest_cons, ingest_nil, ingestOne_read_pixel hp ev hx hy hc, if_neg]
  rintro ⟨hxx, hyy⟩
  exact hne (Prod.ext (BitVec.eq_of_toNat_eq hxx.symm) (BitVec.eq_of_toNat_eq hyy.symm))

/-- R139: SNAPSHOT leaves every channel of the raster decayed. -/
theorem snapshot_raster_read {p : Painter} (hp : p.raster.wf) (now : Ticks) (a : Nat) :
    (p.snapshot now).1.raster.read a = decayByte p.decayNum (p.raster.read a) :=
  memory_read_decay hp p.decayNum a

/-- Settles O45: each copy is the raster its INGEST left. Between the two stands the painter `q` that the first SNAPSHOT
left: the first painter's registers, with its raster decayed. -/
theorem copiesShowThePaintTrail : Obligations.CopiesShowThePaintTrail := by
  intro ev1 ev2 now1 now2 s t _ hwf hin1 hin2 hx
  obtain ⟨s1, hingest1, hx⟩ := execAll_cons_next hx
  obtain ⟨s2, hsnap1, hx⟩ := execAll_cons_next hx
  obtain ⟨s3, hingest2, hx⟩ := execAll_cons_next hx
  obtain ⟨s4, hsnap2, hx⟩ := execAll_cons_next hx
  cases hingest1
  cases exec_snapshot_next hsnap1
  cases hingest2
  cases exec_snapshot_next hsnap2
  cases hx
  set p := s.acc.ingest [ev1]
  have hpwf : p.raster.wf := ingest_wf hwf [ev1]
  have hpconfig : p.SameConfig s.acc := ingest_sameConfig s.acc [ev1]
  set q := (p.snapshot now1).1
  have hqwf : q.raster.wf := memory_wf_decay hpwf p.decayNum
  have hqconfig : q.SameConfig s.acc := (snapshot_sameConfig p now1).trans hpconfig
  refine ⟨(p.snapshot now1).2, ((q.ingest [ev2]).snapshot now2).2, List.append_assoc _ _ _, fun c hc => ?_⟩
  have hpainted1 : p.raster.read (channelIndex s.acc.width ev1.x.toNat ev1.y.toNat c) =
      colorChannel (s.acc.colorOf ev1.polarity) c := ingest_singleton_read_self hwf hin1 hc
  rw [← hqconfig.inBounds_eq] at hin1 hin2
  refine ⟨hpainted1, ?_, fun hne => ?_⟩
  · rw [← hqconfig.width, ← hqconfig.colorOf_eq]
    exact ingest_singleton_read_self hqwf hin2 hc
  · calc (q.ingest [ev2]).raster.read (channelIndex s.acc.width ev1.x.toNat ev1.y.toNat c)
        = q.raster.read (channelIndex s.acc.width ev1.x.toNat ev1.y.toNat c) := by
          rw [← hqconfig.width]
          exact ingest_singleton_read_other hqwf hin1 hne hc
      _ = decayByte p.decayNum (p.raster.read (channelIndex s.acc.width ev1.x.toNat ev1.y.toNat c)) :=
          snapshot_raster_read hpwf now1 _
      _ = decayByte s.acc.decayNum (colorChannel (s.acc.colorOf ev1.polarity) c) := by
          rw [hpainted1, hpconfig.decayNum]

end Sys2Proof.Machine
end
